-- ==== Sys2Proof/Word.lean ====
section
/-! DEFINITION. The widths and the index types the block's registers are written in, and the instrument
types, which the parameters of Config are indexed by. -/

namespace Sys2Proof

/-- A command word or a status word (20_memory R35, 30_encoding R49). -/
abbrev Word := BitVec 32

/-- One byte of the PCM output stream (R39). -/
abbrev Byte := BitVec 8

/-- An IEEE 754 binary32 bit pattern (R17). -/
abbrev Binary32 := BitVec 32

/-- A track index 0..15 (R24). -/
abbrev TrackIdx := Fin 16

/-- A channel index 0..15 (R19). -/
abbrev ChanIdx := Fin 16

/-- Sixteen registers of one kind. -/
abbrev Bank (α : Type) := Vector α 16

/-- The state of one voice oscillator. R12 leaves the type to the platform; every oscillator with
finitely (or countably) many states is a function on numbers. DESIGN CHOICE, log 3. -/
abbrev OscState := Nat

/-- Instrument type of a note (R19): PCM = 0, PSG = 1, NOISE = 2. -/
inductive InstrType where
  | pcm
  | psg
  | noise
deriving DecidableEq, Repr

/-- The logarithmic-domain floor (R5). -/
def FLOOR : Int := -92544

/-- Length of a fade in microframes (R5). -/
def FADE_LEN : Nat := 1920

end Sys2Proof
end

