-- ==== Sys2Proof/Machine/FloatOrder.lean ====
section
/-! DEFINITION. Classes and IEEE comparisons of binary32 bit patterns (R17). They stand apart from the
arithmetic (Machine/Binary32.lean) because the contract of POW in Config is stated with them. -/

namespace Sys2Proof.Machine

/-- Sign bit. -/
def f32Sign (x : Binary32) : Bool := x.getLsbD 31

/-- The pattern without its sign bit: exponent and fraction read as one number. -/
def f32Mag (x : Binary32) : Nat := x.toNat % 2 ^ 31

/-- Neither an infinity nor a NaN: the exponent field is not all ones. -/
def f32IsFinite (x : Binary32) : Bool := decide (f32Mag x < 0x7F800000)

/-- An infinity of either sign. -/
def f32IsInf (x : Binary32) : Bool := decide (f32Mag x = 0x7F800000)

/-- A NaN of either sign and any payload. -/
def f32IsNaN (x : Binary32) : Bool := decide (0x7F800000 < f32Mag x)

/-- For patterns of one sign the order of the values is the order of the patterns (R103's remark), so
this signed key orders all values that are no NaN; both zeros have key 0. -/
def f32Key (x : Binary32) : Int := if f32Sign x then -(f32Mag x : Int) else (f32Mag x : Int)

/-- IEEE `x < y`: false when either is a NaN. -/
def f32Lt (x y : Binary32) : Bool := !f32IsNaN x && !f32IsNaN y && decide (f32Key x < f32Key y)

/-- IEEE `x <= y`: false when either is a NaN. -/
def f32Le (x y : Binary32) : Bool := !f32IsNaN x && !f32IsNaN y && decide (f32Key x ≤ f32Key y)

end Sys2Proof.Machine
end

