-- ==== Sys2Proof/Config.lean ====
section
/-! DEFINITION. The parameters of the block (00_scope R5 to R14), fixed for a run, and the free values.
The OPEN parameters are one opaque constant: nothing in Lean can evaluate it, so a theorem about the
machine holds of every platform that meets the spec's contracts. -/

namespace Sys2Proof

/-- The parameters of R5 to R14 that a rule reads. Domains that are powers of two are bit vectors, so
the range parts of the contracts R7, R9, R10 and R11 hold by type. -/
structure Params where
  /-- `SUSTAIN_TABLE` (R6). -/
  sustainTable : BitVec 7 → Int
  /-- `ATTACK_TABLE` (R7), into 0..255. -/
  attackTable : BitVec 7 → BitVec 8
  /-- `DECAY_TABLE` (R8), into 0..2^24. -/
  decayTable : BitVec 7 → Nat
  /-- `SIN` (R9), into -128..127, read as two's complement. -/
  sin : BitVec 7 → BitVec 8
  /-- `VOLUME_FN` (R10), into 0..AMP_MAX = 0..127. -/
  volumeFn : Int → BitVec 7
  /-- `TIMER_FN` (R11): base timer and pitch to a timer. -/
  timerFn : BitVec 16 → Int → BitVec 16
  /-- `OSC_INIT` (R12). -/
  oscInit : InstrType → Word → OscState
  /-- `OSC` (R12): one mono sample, read as two's complement, and the next oscillator state. -/
  osc : InstrType → Word → BitVec 16 → OscState → BitVec 16 × OscState
  /-- `POW` (R13), standing for x^(10/6). -/
  pow : Binary32 → Binary32
  /-- `SPB` (R14): stereo frames per buffer. -/
  spb : Nat
  /-- `BLOCK_BASE` (R14): byte address of the status window. -/
  blockBase : Nat
  /-- `CHMASK_PCM`, `CHMASK_PSG`, `CHMASK_NOISE` (R5, R94): bit i selects channel i. -/
  chMask : InstrType → BitVec 16
  /-- `LFO_SHIFT` (R14). -/
  lfoShift : Nat
  /-- `FADE_SILENCE_ON_COMPLETING_CALL` (R14, R108). -/
  fadeSilenceOnCompletingCall : Bool

/-- What the spec says of the OPEN parameters, and nothing more. Purity is being a function. -/
structure Contract (p : Params) : Prop where
  /-- R6: values in [FLOOR, 0]. -/
  sustain_range : ∀ i, FLOOR ≤ p.sustainTable i ∧ p.sustainTable i ≤ 0
  /-- R6: non-decreasing in the index. -/
  sustain_mono : ∀ i j : BitVec 7, i ≤ j → p.sustainTable i ≤ p.sustainTable j
  /-- R8: at most 2^24. -/
  decay_range : ∀ i, p.decayTable i ≤ 2 ^ 24
  /-- R10: non-decreasing. -/
  volume_mono : ∀ x y : Int, x ≤ y → p.volumeFn x ≤ p.volumeFn y
  /-- R11: non-increasing in the pitch argument. -/
  timer_anti : ∀ (b : BitVec 16) (x y : Int), x ≤ y → p.timerFn b y ≤ p.timerFn b x
  /-- R13: `POW(+0.0) = +0.0`. -/
  pow_zero : p.pow 0x00000000#32 = 0x00000000#32
  /-- R13: `POW(1.0) = 1.0`. -/
  pow_one : p.pow 0x3F800000#32 = 0x3F800000#32
  /-- R13: for finite x >= 0 the result is finite and >= 0. -/
  pow_range : ∀ x, Machine.f32IsFinite x = true → Machine.f32Le 0#32 x = true →
    Machine.f32IsFinite (p.pow x) = true ∧ Machine.f32Le 0#32 (p.pow x) = true
  /-- R13: non-decreasing on finite x >= 0. -/
  pow_mono : ∀ x y, Machine.f32IsFinite x = true → Machine.f32IsFinite y = true →
    Machine.f32Le 0#32 x = true → Machine.f32Le x y = true → Machine.f32Le (p.pow x) (p.pow y) = true
  /-- R14: `SPB` is an integer >= 1. -/
  spb_pos : 1 ≤ p.spb
  /-- R14: `BLOCK_BASE` is a multiple of 0x400. -/
  base_aligned : p.blockBase % 0x400 = 0

/-- The default channel masks of R5: PCM all 16, PSG slots 8 to 13, Noise slots 14 and 15. -/
def Config.defaultMask : InstrType → BitVec 16
  | .pcm => 0xFFFF#16
  | .psg => 0x3F00#16
  | .noise => 0xC000#16

/-- Some parameters that meet the contract. They only show that it can be met, which Lean asks before it
accepts an opaque constant; no theorem about the machine can use their values. -/
def Config.someParams : Params :=
  { sustainTable := fun _ => 0, attackTable := fun _ => 0, decayTable := fun _ => 0, sin := fun _ => 0
    volumeFn := fun _ => 0, timerFn := fun _ _ => 0, oscInit := fun _ _ => 0
    osc := fun _ _ _ q => (0, q), pow := fun x => x, spb := 1, blockBase := 0
    chMask := Config.defaultMask, lfoShift := 8, fadeSilenceOnCompletingCall := true }

theorem Config.someParams_contract : Contract Config.someParams where
  sustain_range _ := ⟨(by decide : FLOOR ≤ 0), Int.le_refl 0⟩
  sustain_mono _ _ _ := Int.le_refl _
  decay_range _ := Nat.zero_le _
  volume_mono _ _ _ := Nat.le_refl _
  timer_anti _ _ _ _ := Nat.le_refl _
  pow_zero := rfl
  pow_one := rfl
  pow_range _ hf hx := ⟨hf, hx⟩
  pow_mono _ _ _ _ _ h := h
  spb_pos := Nat.le_refl _
  base_aligned := rfl

/-- Parameters together with a proof that they meet the contract. -/
structure Config.Platform where
  params : Params := Config.someParams
  contract : Contract params := by exact Config.someParams_contract
deriving Inhabited

/-- The platform: an opaque constant. Log 1. -/
opaque Config.platform : Config.Platform

/-- The parameters of the machine: the OPEN ones from the platform, the decided ones (R5, R14, D18, D29,
D38) at the spec's values. DESIGN CHOICE, log 2. -/
def Config.params : Params :=
  { Config.platform.params with
    chMask := Config.defaultMask
    lfoShift := 8
    fadeSilenceOnCompletingCall := true }

theorem Config.params_contract : Contract Config.params :=
  let c := Config.platform.contract
  ⟨c.sustain_range, c.sustain_mono, c.decay_range, c.volume_mono, c.timer_anti, c.pow_zero, c.pow_one,
    c.pow_range, c.pow_mono, c.spb_pos, c.base_aligned⟩

/-- `SAMPLE_RATE` (R14): informative, no rule reads it. -/
opaque Config.sampleRate : Nat

/-- `TICK_RATE` (R14, R130): the host's, no rule of the block reads it. -/
def Config.tickRate : Nat := 192

/-- Free value: the pattern of the NaN that an operation on a NaN, or an invalid operation, results in.
IEEE 754 leaves its sign and payload open; the rules of this spec never reach one (R17). Log 9. -/
opaque Config.freeNaN : Binary32 → Binary32 → Binary32

/-- Free value: the 16-bit sample where R112 truncates a NaN, which the spec excludes (R17) and gives no
result for. Log 10. -/
opaque Config.freeSample : Binary32 → BitVec 16

end Sys2Proof
end

