-- ==== Sys2Proof/Machine/Registers.lean ====
section
/-! DEFINITION. The register files of 10_state (channels, tracks, mixer, status), their reset values, and
the actions of the host. A register whose domain in the spec is a power of two is a bit vector of that
width (signed ones in two's complement); the others are integers or natural numbers, whose ranges
Safety.lean states. -/

namespace Sys2Proof.Machine

/-- Envelope state of a channel (R19, R86): Attack = 0, Decay = 1, Sustain = 2, Release = 3. -/
inductive EnvState where
  | attack
  | decay
  | sustain
  | release
deriving DecidableEq, Repr

/-- Quantity a track's LFO modulates (R24): Pitch = 0, Volume = 1, Pan = 2. -/
inductive LfoType where
  | pitch
  | volume
  | pan
deriving DecidableEq, Repr

/-- Kind of the armed fade (R27): None = 0, In = 1, Out = 2. -/
inductive FadeDir where
  | noFade
  | fadingIn
  | fadingOut
deriving DecidableEq, Repr

/-- One channel of the channel register file (R19). -/
structure Channel where
  /-- The owning track; none is a free channel (R20). -/
  owner : Option TrackIdx
  /-- Instrument type of the current note. -/
  typ : InstrType
  /-- Envelope state. -/
  state : EnvState
  /-- Note number after transpose. -/
  key : BitVec 7
  /-- Root key of the voice. -/
  baseKey : BitVec 7
  /-- Velocity of the note. -/
  noteVel : BitVec 7
  /-- Note-duration countdown in ticks, signed. -/
  dur : BitVec 32
  /-- Envelope level, FLOOR..0. -/
  env : Int
  /-- Attack multiplier latched at note start. -/
  atkRate : BitVec 8
  /-- Decay decrement latched at note start, 0..2^24. -/
  decRate : Nat
  /-- Sustain level latched at note start, FLOOR..0. -/
  susLevel : Int
  /-- Release decrement latched at note start, 0..2^24. -/
  relRate : Nat
  /-- Sweep start offset, signed, 1/64 semitone. -/
  sweepPitch : BitVec 16
  /-- Sweep length in ticks. -/
  sweepLen : BitVec 16
  /-- Sweep ticks elapsed. -/
  sweepCnt : BitVec 16
  /-- Which command advances `sweepCnt` (R90). -/
  autoSweep : Bool
  /-- Pan of the voice before the track's pan, signed, -64..63. -/
  startPan : BitVec 7
  /-- Timer at zero pitch offset. -/
  baseTimer : BitVec 16
  /-- Linear volume computed by CH_TICK, 0..127. -/
  volume : BitVec 7
  /-- Pan computed by CH_TICK, signed, -64..63. -/
  pan : BitVec 7
  /-- Timer computed by CH_TICK. -/
  timer : BitVec 16
  /-- Oscillator configuration word of the note. -/
  oscCfg : Word
  /-- Oscillator state. -/
  oscState : OscState
deriving DecidableEq, Repr

/-- One track of the track register file (R24). -/
structure Track where
  volume : BitVec 7
  expression : BitVec 7
  priority : BitVec 8
  /-- Signed, -64..63, 0 the centre. -/
  pan : BitVec 7
  /-- Signed, semitones. -/
  transpose : BitVec 8
  /-- Signed. -/
  pitchBend : BitVec 8
  bendRange : BitVec 8
  lfoType : LfoType
  lfoDepth : BitVec 8
  lfoSpeed : BitVec 8
  lfoRange : BitVec 8
  lfoDelay : BitVec 16
  /-- Running phase, 0..0x7FFF (R25); bits 14:8 are the sine index. -/
  lfoPhase : BitVec 15
  lfoDelayCnt : BitVec 16
  /-- 0..127 overrides the instrument's attack, 128..255 does not (R73); so the next three. -/
  attack : BitVec 8
  decay : BitVec 8
  sustain : BitVec 8
  release : BitVec 8
  waitNote : Bool
deriving DecidableEq, Repr

/-- The mixer registers (R27). -/
structure Mixer where
  mute : Bank Bool
  /-- Master volume, a finite binary32 >= +0.0. -/
  master : Binary32
  fadeDir : FadeDir
  /-- Fade position, 0 silent, 1 full. -/
  fadePos : Binary32
  /-- Position change per microframe. -/
  fadeStep : Binary32
  /-- Remaining microframes, 0..FADE_LEN. -/
  fadeLeft : Nat
  /-- Forced silence after a fade-out completes. -/
  silent : Bool
deriving DecidableEq, Repr

/-- The status registers (R29): three sticky event bits and the record of the last NOTE. -/
structure Status where
  /-- An unknown opcode was executed. -/
  unk : Bool
  /-- A reserved bit was 1 or an operand value invalid. -/
  rsv : Bool
  /-- A NOTE was dropped. -/
  drop : Bool
  /-- VALID bit 0, ALLOC bit 1, STOLE bit 2, CH 7:4, PREV 11:8, TRK 15:12, other bits 0. -/
  lastNote : Word
deriving DecidableEq, Repr

/-- What the host may do to the block (R129). An address is a byte address, a width a number of bytes. -/
inductive HostAction where
  /-- A bus write of `data`. -/
  | write (addr width : Nat) (data : Word)
  /-- A bus read. -/
  | read (addr width : Nat)
  /-- The audio sink takes the head buffer of `audioQ`. -/
  | takeAudio
  /-- The recording sink takes the head buffer of `recQ`. -/
  | takeRec
  /-- The host asserts reset. -/
  | reset
deriving DecidableEq, Repr

/-- A channel after reset (R23). -/
def Channel.atReset (P : Params) : Channel where
  owner := none
  typ := .pcm
  state := .attack
  key := 0
  baseKey := 0
  noteVel := 0
  dur := 0
  env := FLOOR
  atkRate := 0
  decRate := 0
  susLevel := 0
  relRate := 0
  sweepPitch := 0
  sweepLen := 0
  sweepCnt := 0
  autoSweep := false
  startPan := 0
  baseTimer := 0
  volume := 0
  pan := 0
  timer := 0
  oscCfg := 0
  oscState := P.oscInit .pcm 0

/-- A track with every register at the default of R24: after reset (R26) and after TRK_INIT (R78). -/
def Track.defaults : Track where
  volume := 127
  expression := 127
  priority := 64
  pan := 0
  transpose := 0
  pitchBend := 0
  bendRange := 2
  lfoType := .pitch
  lfoDepth := 0
  lfoSpeed := 16
  lfoRange := 1
  lfoDelay := 0
  lfoPhase := 0
  lfoDelayCnt := 0
  attack := 0xFF
  decay := 0xFF
  sustain := 0xFF
  release := 0xFF
  waitNote := false

/-- The binary32 number 1.0. -/
def f32One : Binary32 := 0x3F800000#32

/-- The mixer registers after reset (R28). -/
def Mixer.atReset : Mixer where
  mute := Vector.replicate 16 false
  master := f32One
  fadeDir := .noFade
  fadePos := 0
  fadeStep := 0
  fadeLeft := 0
  silent := false

/-- The status registers after reset (R29). -/
def Status.clear : Status where
  unk := false
  rsv := false
  drop := false
  lastNote := 0

end Sys2Proof.Machine
end

