-- ==== Sys2Proof/Machine/State.lean ====
section
/-! DEFINITION. The state of the machine, the reasons a step can stop, and the state after reset. -/

namespace Sys2Proof.Machine

/-- The whole state (10_state), the command stream (R35, R49, R56), and two fields of the model's own that
stand for the host: `host` and `rx`. The block has no data memory, no program counter, no condition codes
and no trap state (R31 to R33, R35, R121 to R124). -/
structure State where
  /-- The channel register file (R19). -/
  channels : Bank Channel
  /-- The track register file (R24). -/
  tracks : Bank Track
  /-- The mixer registers (R27). -/
  mix : Mixer
  /-- The status registers (R29). -/
  st : Status
  /-- Buffers handed to the audio sink and not yet taken, oldest first (R30). -/
  audioQ : List (List Byte)
  /-- Buffers handed to the recording sink and not yet taken, oldest first (R30). -/
  recQ : List (List Byte)
  /-- Words written to CMD and not yet consumed, oldest first (R35, R38). -/
  stream : List Word
  /-- Index of the next unread word of the command stream (R32, D46). -/
  pos : Nat
  /-- The MODEL's own: what the host will do, next action first. Log 5. -/
  host : List HostAction
  /-- The MODEL's own: the words status reads have returned to the host, oldest first. Log 6. -/
  rx : List Word
deriving DecidableEq, Repr

/-- Faults. There are none: the block has no trap and nothing halts it (R120, R121), so no step ends in a
fault, by type. Safe: the spec has no fault either. -/
inductive Fault where
deriving DecidableEq, Repr

/-- Refusals. -/
inductive Refusal where
  /-- Raised by exec for a command that has no meaning yet. Safe: the model stops. No arm raises it. -/
  | notModelled (mnemonic : String)
  /-- Raised by the host port for an access R40 refuses (another width than 32 bits, a misaligned
  address, or an address outside the window): "the model has no step for it (stuck)". Safe: the model
  stops where the spec has no step. -/
  | accessRefused
deriving DecidableEq, Repr

/-- The state after reset under the parameters `P` (R131, R132). -/
def State.resetWith (P : Params) : State where
  channels := Vector.replicate 16 (Channel.atReset P)
  tracks := Vector.replicate 16 Track.defaults
  mix := Mixer.atReset
  st := Status.clear
  audioQ := []
  recQ := []
  stream := []
  pos := 0
  host := []
  rx := []

/-- The machine right after reset (R131). -/
def State.reset : State := State.resetWith Config.params

end Sys2Proof.Machine
end

