-- ==== Sys2Proof/Machine/Ops.lean ====
section
/-! DEFINITION. The named operations over the register files: one accessor and one update each for
channels and tracks, the set of channels a track owns, Stop, and consuming words of the command stream. -/

namespace Sys2Proof.Machine

/-- `0..15 ascending`: the order every loop of the spec visits channels in. -/
def allIdx : List (Fin 16) := List.finRange 16

/-- Every register of a bank replaced by a function of its index and itself. It stands for a loop over the
indices whose body for index c reads and writes register c alone (DEDUCED, log 7). -/
def bankMap {α : Type} (f : Fin 16 → α → α) (v : Bank α) : Bank α := Vector.ofFn fun i => f i v[i.val]

/-- `ch[c]` (R18). -/
def State.ch (s : State) (c : ChanIdx) : Channel := s.channels[c.val]

/-- `trk[t]` (R18). -/
def State.trk (s : State) (t : TrackIdx) : Track := s.tracks[t.val]

/-- `ch[c] <- x`. -/
def State.setCh (s : State) (c : ChanIdx) (x : Channel) : State :=
  { s with channels := s.channels.set c.val x }

/-- `trk[t] <- x`. -/
def State.setTrk (s : State) (t : TrackIdx) (x : Track) : State :=
  { s with tracks := s.tracks.set t.val x }

/-- Track `t` rewritten by `f`; the fields `f` keeps are unchanged. -/
def State.modTrk (s : State) (t : TrackIdx) (f : Track → Track) : State := s.setTrk t (f (s.trk t))

/-- Every channel rewritten by `f`. -/
def State.mapCh (s : State) (f : Channel → Channel) : State :=
  { s with channels := bankMap (fun _ x => f x) s.channels }

/-- `owned(t)` in ascending order (R21). -/
def State.owned (s : State) (t : TrackIdx) : List ChanIdx :=
  allIdx.filter fun c => decide ((s.ch c).owner = some t)

/-- `Stop` on one channel (R92): frees it and zeroes its volume; every other field keeps its value. -/
def Channel.stop (x : Channel) : Channel := { x with owner := none, volume := 0 }

/-- `Stop(c)` (R92). -/
def State.stopCh (s : State) (c : ChanIdx) : State := s.setCh c (s.ch c).stop

/-- The words before `rest` are consumed: the position advances by their number (R32, R50). -/
def State.consume (s : State) (rest : List Word) : State :=
  { s with stream := rest, pos := s.pos + (s.stream.length - rest.length) }

end Sys2Proof.Machine
end

