-- ==== Sys2Proof/Machine/Arbiter.lean ====
section
/-! DEFINITION. The voice-allocation arbiter (R94 to R96). It changes no state. -/

namespace Sys2Proof.Machine

/-- `Score(c)` (R95): free -2, releasing -1, otherwise the owning track's priority. -/
def score (s : State) (c : ChanIdx) : Int :=
  match (s.ch c).owner with
  | none => -2
  | some t => if (s.ch c).state = .release then -1 else ((s.trk t).priority.toNat : Int)

/-- Channel `c` may play the type (R94). -/
def maskHas (P : Params) (ty : InstrType) (c : ChanIdx) : Bool := (P.chMask ty).getLsbD c.val

/-- `c` is strictly better than `b`: a lower score, or the same score and a lower volume (R96). -/
def better (s : State) (c b : ChanIdx) : Bool :=
  decide (score s c < score s b) ||
    (decide (score s c = score s b) && decide ((s.ch c).volume.toNat < (s.ch b).volume.toNat))

/-- One turn of the scan: the best channel so far against channel `c` (R96). -/
def scanStep (P : Params) (s : State) (ty : InstrType) (best : Option ChanIdx) (c : ChanIdx) :
    Option ChanIdx :=
  if maskHas P ty c then
    match best with
    | none => some c
    | some b => if better s c b then some c else some b
  else best

/-- The best channel of the type's mask, the lowest index among equals (R96). -/
def scan (P : Params) (s : State) (ty : InstrType) : Option ChanIdx :=
  allIdx.foldl (scanStep P s ty) none

/-- `Arbitrate(type, t)` (R96). -/
def arbitrate (P : Params) (s : State) (ty : InstrType) (t : TrackIdx) : Option ChanIdx :=
  match scan P s ty with
  | none => none
  | some b => if ((s.trk t).priority.toNat : Int) < score s b then none else some b

end Sys2Proof.Machine
end

