-- ==== Sys2Proof/Syntax.lean ====
section
/-! DEFINITION. The commands of the block: one constructor per row of spec/opcode_table.json (R53), each
with the fields of its format (R51, R52). A command also carries its reserved bits, because a command
whose reserved bits are not zero still executes and records the event RSV (R54 b), so no bit of a word
is lost in decoding. A field named `rsv` is the reserved part of word 0. -/

namespace Sys2Proof

/-- The fields of the six words of a NOTE (R51, format NOTE), reserved bits included. -/
structure NoteFields where
  /-- word 0, 23:20: the requesting track. -/
  t : TrackIdx
  /-- word 0, 19:18: 0 PCM, 1 PSG, 2 NOISE, 3 invalid. -/
  typ : BitVec 2
  /-- word 0, 17: auto-sweep flag. -/
  autoSweep : Bool
  /-- word 0, 16:15, reserved. -/
  rsvA : BitVec 2
  /-- word 0, 14:8: velocity. -/
  vel : BitVec 7
  /-- word 0, 7, reserved. -/
  rsvB : BitVec 1
  /-- word 0, 6:0: note number before transpose. -/
  key : BitVec 7
  /-- word 1: duration in ticks, signed. -/
  dur : Word
  /-- word 2, 31:16: base timer. -/
  baseTimer : BitVec 16
  /-- word 2, 15, reserved. -/
  rsvC : BitVec 1
  /-- word 2, 14:8: base key. -/
  baseKey : BitVec 7
  /-- word 2, 7, reserved. -/
  rsvD : BitVec 1
  /-- word 2, 6:0: raw starting pan, 64 the centre. -/
  startPan : BitVec 7
  /-- word 3, 31, reserved. -/
  rsvE : BitVec 1
  /-- word 3, 30:24: instrument attack. -/
  instAttack : BitVec 7
  /-- word 3, 23, reserved. -/
  rsvF : BitVec 1
  /-- word 3, 22:16: instrument decay. -/
  instDecay : BitVec 7
  /-- word 3, 15, reserved. -/
  rsvG : BitVec 1
  /-- word 3, 14:8: instrument sustain. -/
  instSustain : BitVec 7
  /-- word 3, 7, reserved. -/
  rsvH : BitVec 1
  /-- word 3, 6:0: instrument release. -/
  instRelease : BitVec 7
  /-- word 4, 31:16: sweep pitch, signed. -/
  sweepPitch : BitVec 16
  /-- word 4, 15:0: sweep length in ticks. -/
  sweepLen : BitVec 16
  /-- word 5: oscillator configuration word. -/
  oscCfg : Word
deriving DecidableEq, Repr

/-- A command of the block. -/
inductive Instr where
  /-- NOP, 0x00 (R115). -/
  | nop (rsv : BitVec 24)
  /-- TRK_INIT, 0x01 (R78). -/
  | trkInit (t : TrackIdx) (rsv : BitVec 20)
  /-- TRK_VOLUME, 0x02 (R61). -/
  | trkVolume (t : TrackIdx) (rsv : BitVec 13) (v : BitVec 7)
  /-- TRK_EXPRESSION, 0x03 (R62). -/
  | trkExpression (t : TrackIdx) (rsv : BitVec 13) (v : BitVec 7)
  /-- TRK_PRIORITY, 0x04 (R63). -/
  | trkPriority (t : TrackIdx) (rsv : BitVec 12) (v : BitVec 8)
  /-- TRK_PAN, 0x05 (R64); `v` is the raw pan. -/
  | trkPan (t : TrackIdx) (rsv : BitVec 13) (v : BitVec 7)
  /-- TRK_TRANSPOSE, 0x06 (R65). -/
  | trkTranspose (t : TrackIdx) (rsv : BitVec 12) (v : BitVec 8)
  /-- TRK_PITCHBEND, 0x07 (R66). -/
  | trkPitchbend (t : TrackIdx) (rsv : BitVec 12) (v : BitVec 8)
  /-- TRK_BENDRANGE, 0x08 (R67). -/
  | trkBendrange (t : TrackIdx) (rsv : BitVec 12) (v : BitVec 8)
  /-- TRK_LFOTYPE, 0x09 (R68); `k` = 3 is invalid. -/
  | trkLfotype (t : TrackIdx) (rsv : BitVec 18) (k : BitVec 2)
  /-- TRK_LFODEPTH, 0x0A (R69). -/
  | trkLfodepth (t : TrackIdx) (rsv : BitVec 12) (v : BitVec 8)
  /-- TRK_LFOSPEED, 0x0B (R70). -/
  | trkLfospeed (t : TrackIdx) (rsv : BitVec 12) (v : BitVec 8)
  /-- TRK_LFORANGE, 0x0C (R71). -/
  | trkLforange (t : TrackIdx) (rsv : BitVec 12) (v : BitVec 8)
  /-- TRK_LFODELAY, 0x0D (R72). -/
  | trkLfodelay (t : TrackIdx) (rsv : BitVec 4) (v : BitVec 16)
  /-- TRK_ATTACK, 0x0E (R73). -/
  | trkAttack (t : TrackIdx) (rsv : BitVec 12) (v : BitVec 8)
  /-- TRK_DECAY, 0x0F (R74). -/
  | trkDecay (t : TrackIdx) (rsv : BitVec 12) (v : BitVec 8)
  /-- TRK_SUSTAIN, 0x10 (R75). -/
  | trkSustain (t : TrackIdx) (rsv : BitVec 12) (v : BitVec 8)
  /-- TRK_RELEASE, 0x11 (R76). -/
  | trkRelease (t : TrackIdx) (rsv : BitVec 12) (v : BitVec 8)
  /-- TRK_WAITNOTE, 0x12 (R77). -/
  | trkWaitnote (t : TrackIdx) (rsv : BitVec 19) (b : Bool)
  /-- TRK_MUTE, 0x13 (R102). -/
  | trkMute (t : TrackIdx) (rsv : BitVec 19) (b : Bool)
  /-- TRK_TICK, 0x14 (R79). -/
  | trkTick (t : TrackIdx) (rsv : BitVec 20)
  /-- NOTE, 0x20 (R98). -/
  | note (n : NoteFields)
  /-- CH_STOP, 0x21 (R93); `rsvHi` is 23:20, `rsvLo` is 15:0. -/
  | chStop (rsvHi : BitVec 4) (c : ChanIdx) (rsvLo : BitVec 16)
  /-- CH_TICK, 0x30 (R100). -/
  | chTick (rsv : BitVec 24)
  /-- PROCESS, 0x31 (R113); bit 1 is REC, bit 0 is OUT. -/
  | process (rsv : BitVec 22) (toRec toOut : Bool)
  /-- EMULATE, 0x32 (R114). -/
  | emulate (rsv : BitVec 24)
  /-- FADE_IN, 0x40 (R104). -/
  | fadeIn (rsv : BitVec 24)
  /-- FADE_OUT, 0x41 (R105). -/
  | fadeOut (rsv : BitVec 24)
  /-- FADE_RESET, 0x42 (R106). -/
  | fadeReset (rsv : BitVec 24)
  /-- SET_MASTER, 0x43 (R103); `f` is word 1. -/
  | setMaster (rsv : BitVec 24) (f : Binary32)
  /-- CLR_STATUS, 0x4F (R116). -/
  | clrStatus (rsv : BitVec 24)
deriving DecidableEq, Repr

end Sys2Proof
end

