-- ==== Sys2Proof/WellFormed.lean ====
section
/-! DEFINITION. Well-formed commands: those an assembler writes (R57) and whose operand values are valid
(R54 c). A command that is not well formed still executes; it is one that raises RSV. -/

namespace Sys2Proof

/-- Every reserved bit of the NOTE's words is 0. -/
def NoteFields.reservedZero (n : NoteFields) : Bool :=
  n.rsvA == 0 && n.rsvB == 0 && n.rsvC == 0 && n.rsvD == 0 && n.rsvE == 0 && n.rsvF == 0 &&
    n.rsvG == 0 && n.rsvH == 0

/-- Every reserved bit of the command is 0 (R54 b, R57). -/
def Instr.reservedZero : Instr → Bool
  | .nop r | .chTick r | .emulate r | .fadeIn r | .fadeOut r | .fadeReset r | .clrStatus r => r == 0
  | .setMaster r _ => r == 0
  | .trkInit _ r | .trkTick _ r => r == 0
  | .trkVolume _ r _ | .trkExpression _ r _ | .trkPan _ r _ => r == 0
  | .trkPriority _ r _ | .trkTranspose _ r _ | .trkPitchbend _ r _ | .trkBendrange _ r _
  | .trkLfodepth _ r _ | .trkLfospeed _ r _ | .trkLforange _ r _ | .trkAttack _ r _
  | .trkDecay _ r _ | .trkSustain _ r _ | .trkRelease _ r _ => r == 0
  | .trkLfotype _ r _ => r == 0
  | .trkLfodelay _ r _ => r == 0
  | .trkWaitnote _ r _ | .trkMute _ r _ => r == 0
  | .chStop hi _ lo => hi == 0 && lo == 0
  | .process r _ _ => r == 0
  | .note n => n.reservedZero

/-- Every operand value is valid (R54 c): no LFO type 3, no instrument type 3, and a master volume whose
sign bit is 0 and that is no NaN, no infinity and at most 65536.0. -/
def Instr.operandsValid : Instr → Bool
  | .trkLfotype _ _ k => k != 3
  | .note n => n.typ != 3
  | .setMaster _ f => decide (f.toNat ≤ 0x47800000)
  | .nop _ | .trkInit _ _ | .trkVolume _ _ _ | .trkExpression _ _ _ | .trkPriority _ _ _
  | .trkPan _ _ _ | .trkTranspose _ _ _ | .trkPitchbend _ _ _ | .trkBendrange _ _ _
  | .trkLfodepth _ _ _ | .trkLfospeed _ _ _ | .trkLforange _ _ _ | .trkLfodelay _ _ _
  | .trkAttack _ _ _ | .trkDecay _ _ _ | .trkSustain _ _ _ | .trkRelease _ _ _
  | .trkWaitnote _ _ _ | .trkMute _ _ _ | .trkTick _ _ | .chStop _ _ _ | .chTick _
  | .process _ _ _ | .emulate _ | .fadeIn _ | .fadeOut _ | .fadeReset _ | .clrStatus _ => true

/-- A well-formed command: reserved bits 0 and operand values valid. -/
def Instr.wf (i : Instr) : Bool := i.reservedZero && i.operandsValid

end Sys2Proof
end

