-- ==== Sys2Proof/Decode.lean ====
section
/-! DEFINITION. Decoding of the command stream (R49 to R54) and, after it, the encoder. Decoding is total
on every list of words: a command, an unknown opcode named by its number, or a command whose words have
not all arrived. -/

namespace Sys2Proof

/-- What the words at the head of the command stream are. -/
inductive Decoded where
  /-- A command of R53's map, and the words after it. -/
  | command (i : Instr) (rest : List Word)
  /-- An opcode that R53's map does not hold: a one-word command (R50, R54 a). -/
  | unknown (op : BitVec 8) (rest : List Word)
  /-- No word, or a NOTE or SET_MASTER whose last words have not arrived (R56). -/
  | incomplete
deriving DecidableEq, Repr

/-- The `n` bits of a word from bit `lo` up. -/
def bits (lo n : Nat) (w : Word) : BitVec n := w.extractLsb' lo n

/-- Fields side by side, the leftmost highest (`cat` of R15), as a bit vector of the written width. -/
def pack {a n : Nat} (x : BitVec a) (h : a = n) : BitVec n := x.cast h

/-- `OP`, bits 31:24 of a header (R49). -/
def opcodeOf (w : Word) : BitVec 8 := bits 24 8 w

/-- Field T, bits 23:20 (R52). -/
def trackOf (w : Word) : TrackIdx := (bits 20 4 w).toFin

/-- Field C, bits 19:16 (R52). -/
def channelOf (w : Word) : ChanIdx := (bits 16 4 w).toFin

/-- The number of words of a command with opcode `op` (R50). -/
def cmdLength (op : BitVec 8) : Nat :=
  if op = 0x20#8 then 6 else if op = 0x43#8 then 2 else 1

/-- The one-word commands of R53's map; `none` for every other opcode. -/
def decodeOneWord (w : Word) : Option Instr :=
  match opcodeOf w with
  | 0x00#8 => some (.nop (bits 0 24 w))
  | 0x01#8 => some (.trkInit (trackOf w) (bits 0 20 w))
  | 0x02#8 => some (.trkVolume (trackOf w) (bits 7 13 w) (bits 0 7 w))
  | 0x03#8 => some (.trkExpression (trackOf w) (bits 7 13 w) (bits 0 7 w))
  | 0x04#8 => some (.trkPriority (trackOf w) (bits 8 12 w) (bits 0 8 w))
  | 0x05#8 => some (.trkPan (trackOf w) (bits 7 13 w) (bits 0 7 w))
  | 0x06#8 => some (.trkTranspose (trackOf w) (bits 8 12 w) (bits 0 8 w))
  | 0x07#8 => some (.trkPitchbend (trackOf w) (bits 8 12 w) (bits 0 8 w))
  | 0x08#8 => some (.trkBendrange (trackOf w) (bits 8 12 w) (bits 0 8 w))
  | 0x09#8 => some (.trkLfotype (trackOf w) (bits 2 18 w) (bits 0 2 w))
  | 0x0A#8 => some (.trkLfodepth (trackOf w) (bits 8 12 w) (bits 0 8 w))
  | 0x0B#8 => some (.trkLfospeed (trackOf w) (bits 8 12 w) (bits 0 8 w))
  | 0x0C#8 => some (.trkLforange (trackOf w) (bits 8 12 w) (bits 0 8 w))
  | 0x0D#8 => some (.trkLfodelay (trackOf w) (bits 16 4 w) (bits 0 16 w))
  | 0x0E#8 => some (.trkAttack (trackOf w) (bits 8 12 w) (bits 0 8 w))
  | 0x0F#8 => some (.trkDecay (trackOf w) (bits 8 12 w) (bits 0 8 w))
  | 0x10#8 => some (.trkSustain (trackOf w) (bits 8 12 w) (bits 0 8 w))
  | 0x11#8 => some (.trkRelease (trackOf w) (bits 8 12 w) (bits 0 8 w))
  | 0x12#8 => some (.trkWaitnote (trackOf w) (bits 1 19 w) (w.getLsbD 0))
  | 0x13#8 => some (.trkMute (trackOf w) (bits 1 19 w) (w.getLsbD 0))
  | 0x14#8 => some (.trkTick (trackOf w) (bits 0 20 w))
  | 0x21#8 => some (.chStop (bits 20 4 w) (channelOf w) (bits 0 16 w))
  | 0x30#8 => some (.chTick (bits 0 24 w))
  | 0x31#8 => some (.process (bits 2 22 w) (w.getLsbD 1) (w.getLsbD 0))
  | 0x32#8 => some (.emulate (bits 0 24 w))
  | 0x40#8 => some (.fadeIn (bits 0 24 w))
  | 0x41#8 => some (.fadeOut (bits 0 24 w))
  | 0x42#8 => some (.fadeReset (bits 0 24 w))
  | 0x4F#8 => some (.clrStatus (bits 0 24 w))
  | _ => none

/-- The fields of a NOTE from its six words (R51, format NOTE). -/
def decodeNote (w0 w1 w2 w3 w4 w5 : Word) : NoteFields where
  t := trackOf w0
  typ := bits 18 2 w0
  autoSweep := w0.getLsbD 17
  rsvA := bits 15 2 w0
  vel := bits 8 7 w0
  rsvB := bits 7 1 w0
  key := bits 0 7 w0
  dur := w1
  baseTimer := bits 16 16 w2
  rsvC := bits 15 1 w2
  baseKey := bits 8 7 w2
  rsvD := bits 7 1 w2
  startPan := bits 0 7 w2
  rsvE := bits 31 1 w3
  instAttack := bits 24 7 w3
  rsvF := bits 23 1 w3
  instDecay := bits 16 7 w3
  rsvG := bits 15 1 w3
  instSustain := bits 8 7 w3
  rsvH := bits 7 1 w3
  instRelease := bits 0 7 w3
  sweepPitch := bits 16 16 w4
  sweepLen := bits 0 16 w4
  oscCfg := w5

/-- A NOTE from its header and the words after it. -/
def decodeNoteCmd (w0 : Word) : List Word → Decoded
  | w1 :: w2 :: w3 :: w4 :: w5 :: rest => .command (.note (decodeNote w0 w1 w2 w3 w4 w5)) rest
  | _ => .incomplete

/-- A SET_MASTER from its header and the words after it. -/
def decodeMasterCmd (w0 : Word) : List Word → Decoded
  | w1 :: rest => .command (.setMaster (bits 0 24 w0) w1) rest
  | [] => .incomplete

/-- Decodes the command whose header is the first word (R49, R50). -/
def decode : List Word → Decoded
  | [] => .incomplete
  | w :: rest =>
    if opcodeOf w = 0x20#8 then decodeNoteCmd w rest
    else if opcodeOf w = 0x43#8 then decodeMasterCmd w rest
    else match decodeOneWord w with
      | some i => .command i rest
      | none => .unknown (opcodeOf w) rest

/-- Four bytes as a word, little-endian (R39, for a host that carries words as bytes). -/
def wordOfBytes (b0 b1 b2 b3 : Byte) : Word := pack (b3 ++ b2 ++ b1 ++ b0) rfl

/-- A byte string as words; bytes after the last whole word are no word yet. -/
def wordsOfBytes : List Byte → List Word
  | b0 :: b1 :: b2 :: b3 :: rest => wordOfBytes b0 b1 b2 b3 :: wordsOfBytes rest
  | _ => []

/-- A word as four bytes, little-endian. -/
def bytesOfWord (w : Word) : List Byte := [bits 0 8 w, bits 8 8 w, bits 16 8 w, bits 24 8 w]

/-- Decodes a byte string: total on any bytes. -/
def decodeBytes (bs : List Byte) : Decoded := decode (wordsOfBytes bs)

/-! ### The encoder, from the same tables -/

/-- Opcode above 24 bits of operands. -/
def header (op : BitVec 8) (body : BitVec 24) : Word := pack (op ++ body) rfl

/-- A track field as bits. -/
def idxBits (t : Fin 16) : BitVec 4 := BitVec.ofFin t

/-- Format T. -/
def fmtT (op : BitVec 8) (t : TrackIdx) (r : BitVec 20) : Word := header op (pack (idxBits t ++ r) rfl)

/-- Format TI8 with a V7 operand. -/
def fmtV7 (op : BitVec 8) (t : TrackIdx) (r : BitVec 13) (v : BitVec 7) : Word := fmtT op t (pack (r ++ v) rfl)

/-- Format TI8 with a U8 or S8 operand. -/
def fmtI8 (op : BitVec 8) (t : TrackIdx) (r : BitVec 12) (v : BitVec 8) : Word := fmtT op t (pack (r ++ v) rfl)

/-- Format TI8 with an E2 operand. -/
def fmtE2 (op : BitVec 8) (t : TrackIdx) (r : BitVec 18) (k : BitVec 2) : Word := fmtT op t (pack (r ++ k) rfl)

/-- Format TI8 with a B1 operand. -/
def fmtB1 (op : BitVec 8) (t : TrackIdx) (r : BitVec 19) (b : Bool) : Word := fmtT op t (pack (r ++ BitVec.ofBool b) rfl)

/-- Format TI16. -/
def fmtI16 (op : BitVec 8) (t : TrackIdx) (r : BitVec 4) (v : BitVec 16) : Word := fmtT op t (pack (r ++ v) rfl)

/-- Word 0 of a NOTE. -/
def noteWord0 (n : NoteFields) : Word :=
  header 0x20#8
    (pack (idxBits n.t ++ n.typ ++ BitVec.ofBool n.autoSweep ++ n.rsvA ++ n.vel ++ n.rsvB ++ n.key) rfl)

/-- Word 2 of a NOTE. -/
def noteWord2 (n : NoteFields) : Word :=
  pack (n.baseTimer ++ n.rsvC ++ n.baseKey ++ n.rsvD ++ n.startPan) rfl

/-- Word 3 of a NOTE. -/
def noteWord3 (n : NoteFields) : Word :=
  pack (n.rsvE ++ n.instAttack ++ n.rsvF ++ n.instDecay ++ n.rsvG ++ n.instSustain ++ n.rsvH ++
    n.instRelease) rfl

/-- Word 4 of a NOTE. -/
def noteWord4 (n : NoteFields) : Word := pack (n.sweepPitch ++ n.sweepLen) rfl

/-- The words of a command (R51, R53). -/
def encode : Instr → List Word
  | .nop r => [header 0x00#8 r]
  | .trkInit t r => [fmtT 0x01#8 t r]
  | .trkVolume t r v => [fmtV7 0x02#8 t r v]
  | .trkExpression t r v => [fmtV7 0x03#8 t r v]
  | .trkPriority t r v => [fmtI8 0x04#8 t r v]
  | .trkPan t r v => [fmtV7 0x05#8 t r v]
  | .trkTranspose t r v => [fmtI8 0x06#8 t r v]
  | .trkPitchbend t r v => [fmtI8 0x07#8 t r v]
  | .trkBendrange t r v => [fmtI8 0x08#8 t r v]
  | .trkLfotype t r k => [fmtE2 0x09#8 t r k]
  | .trkLfodepth t r v => [fmtI8 0x0A#8 t r v]
  | .trkLfospeed t r v => [fmtI8 0x0B#8 t r v]
  | .trkLforange t r v => [fmtI8 0x0C#8 t r v]
  | .trkLfodelay t r v => [fmtI16 0x0D#8 t r v]
  | .trkAttack t r v => [fmtI8 0x0E#8 t r v]
  | .trkDecay t r v => [fmtI8 0x0F#8 t r v]
  | .trkSustain t r v => [fmtI8 0x10#8 t r v]
  | .trkRelease t r v => [fmtI8 0x11#8 t r v]
  | .trkWaitnote t r b => [fmtB1 0x12#8 t r b]
  | .trkMute t r b => [fmtB1 0x13#8 t r b]
  | .trkTick t r => [fmtT 0x14#8 t r]
  | .note n => [noteWord0 n, n.dur, noteWord2 n, noteWord3 n, noteWord4 n, n.oscCfg]
  | .chStop hi c lo => [header 0x21#8 (pack (hi ++ idxBits c ++ lo) rfl)]
  | .chTick r => [header 0x30#8 r]
  | .process r toRec toOut => [header 0x31#8 (pack (r ++ BitVec.ofBool toRec ++ BitVec.ofBool toOut) rfl)]
  | .emulate r => [header 0x32#8 r]
  | .fadeIn r => [header 0x40#8 r]
  | .fadeOut r => [header 0x41#8 r]
  | .fadeReset r => [header 0x42#8 r]
  | .setMaster r f => [header 0x43#8 r, f]
  | .clrStatus r => [header 0x4F#8 r]

/-- A command as bytes, for a host that carries the words as bytes (R39). -/
def encodeBytes (i : Instr) : List Byte := (encode i).flatMap bytesOfWord

/-! ### The opcode table's numbering -/

/-- The words of an instruction whose lowest `nbits` bits are those of `w` and whose other bits, up to the
longest command's six words, are 0; word k holds bits 32k to 32k + 31. -/
def tableWords (nbits w : Nat) : List Word :=
  [0, 1, 2, 3, 4, 5].map fun k => BitVec.ofNat 32 (w % 2 ^ nbits / 2 ^ (32 * k))

/-- The command the decoder reads from the bits of one opcode-table row. -/
def decodeTableWord (nbits w : Nat) : Option Instr :=
  match decode (tableWords nbits w) with
  | .command i _ => some i
  | .unknown _ _ => none
  | .incomplete => none

end Sys2Proof
end

