-- ==== Sys2Proof/Machine/Flags.lean ====
section
/-! DEFINITION. The events (R118) and the status they write. The block has no condition codes and no trap
(R33, R121), so raising an event is the whole of what an exception is here: a sticky bit is set and the
command continues (R18, R119). -/

namespace Sys2Proof.Machine

/-- `raise UNK`. -/
def State.raiseUnk (s : State) : State := { s with st := { s.st with unk := true } }

/-- `raise RSV`. -/
def State.raiseRsv (s : State) : State := { s with st := { s.st with rsv := true } }

/-- `raise DROP`. -/
def State.raiseDrop (s : State) : State := { s with st := { s.st with drop := true } }

/-- `RsvCheck` (R55): raises RSV when `bad`, that is when a reserved bit of the command is 1, and leaves the
bit as it was otherwise. -/
def State.rsvCheck (s : State) (bad : Bool) : State :=
  { s with st := { s.st with rsv := s.st.rsv || bad } }

/-- `st.lastNote <- w`. -/
def State.setLastNote (s : State) (w : Word) : State := { s with st := { s.st with lastNote := w } }

/-- The record of a dropped NOTE of track `t` (R98): VALID = 1, ALLOC = 0. -/
def lastNoteDropped (t : TrackIdx) : Word := BitVec.ofNat 32 (t.val * 2 ^ 12 + 1)

/-- The record of a NOTE of track `t` that got channel `c`, whose owner before was `prev` (R98). -/
def lastNoteTaken (t : TrackIdx) (c : ChanIdx) (prev : Option TrackIdx) : Word :=
  let p := match prev with
    | some u => u.val
    | none => 0
  let stole := if prev.isSome then 1 else 0
  BitVec.ofNat 32 (t.val * 2 ^ 12 + p * 2 ^ 8 + c.val * 2 ^ 4 + stole * 2 ^ 2 + 2 + 1)

/-- The reserved-bit masks of R55: word number and mask, for each format and operand kind. The meanings
test the reserved fields themselves, which Laws show to be the same. -/
def rsvMasks : Instr → List (Nat × Word)
  | .nop _ | .chTick _ | .emulate _ | .fadeIn _ | .fadeOut _ | .fadeReset _ | .clrStatus _ =>
    [(0, 0x00FFFFFF#32)]
  | .setMaster _ _ => [(0, 0x00FFFFFF#32)]
  | .trkInit _ _ | .trkTick _ _ => [(0, 0x000FFFFF#32)]
  | .trkVolume _ _ _ | .trkExpression _ _ _ | .trkPan _ _ _ => [(0, 0x000FFF80#32)]
  | .trkPriority _ _ _ | .trkTranspose _ _ _ | .trkPitchbend _ _ _ | .trkBendrange _ _ _
  | .trkLfodepth _ _ _ | .trkLfospeed _ _ _ | .trkLforange _ _ _ | .trkAttack _ _ _
  | .trkDecay _ _ _ | .trkSustain _ _ _ | .trkRelease _ _ _ => [(0, 0x000FFF00#32)]
  | .trkLfotype _ _ _ => [(0, 0x000FFFFC#32)]
  | .trkWaitnote _ _ _ | .trkMute _ _ _ => [(0, 0x000FFFFE#32)]
  | .trkLfodelay _ _ _ => [(0, 0x000F0000#32)]
  | .chStop _ _ _ => [(0, 0x00F0FFFF#32)]
  | .process _ _ _ => [(0, 0x00FFFFFC#32)]
  | .note _ => [(0, 0x00018080#32), (2, 0x00008080#32), (3, 0x80808080#32)]

/-- `RsvCheck` as R55 writes it, on the words of a command: some masked word is not 0. -/
def rsvMaskHit (i : Instr) : Bool :=
  (rsvMasks i).any fun km => ((encode i).getD km.1 0 &&& km.2) != 0#32

end Sys2Proof.Machine
end

