-- ==== Sys2Proof/Machine/Binary32.lean ====
section
/-! DEFINITION. IEEE 754 binary32 arithmetic with round to nearest even (R17). Every finite binary32 value
is a whole number of units of 2^-149, so sums and products are computed exactly on integers and rounded
once. -/

namespace Sys2Proof.Machine

/-- The value of a finite pattern in units of 2^-149. -/
def f32Units (x : Binary32) : Int :=
  let e := f32Mag x / 2 ^ 23
  let f := f32Mag x % 2 ^ 23
  let n : Nat := if e = 0 then f else (2 ^ 23 + f) * 2 ^ (e - 1)
  if f32Sign x then -(n : Int) else (n : Int)

/-- The pattern with the given sign and magnitude. -/
def f32Pattern (neg : Bool) (mag : Nat) : Binary32 := BitVec.ofNat 32 (if neg then 2 ^ 31 + mag else mag)

/-- `f32` of the real `num / den` units of 2^-149 with the given sign (`den` > 0): nearest, ties to even,
an infinity past the largest finite value. The spacing at that size is 2^k units. -/
def f32Round (neg : Bool) (num den : Nat) : Binary32 :=
  let k := (num / den).log2 - 23
  let d := den * 2 ^ k
  let q := num / d
  let r := num % d
  let m := if d < 2 * r ∨ (2 * r = d ∧ q % 2 = 1) then q + 1 else q
  f32Pattern neg (min (k * 2 ^ 23 + m) 0x7F800000)

/-- `f32(n)` of an integer. -/
def f32OfInt (n : Int) : Binary32 := f32Round (decide (n < 0)) (n.natAbs * 2 ^ 149) 1

/-- `f32(1 / n)` of a positive integer; `RECIP` of R14 is `f32Recip SPB`. -/
def f32Recip (n : Nat) : Binary32 := f32Round false (2 ^ 149) n

/-- The pattern with its sign turned over. -/
def f32Neg (x : Binary32) : Binary32 := x ^^^ 0x80000000#32

/-- A quiet NaN whose sign and payload are free. Log 9. -/
def f32NaN (x y : Binary32) : Binary32 := Config.freeNaN x y ||| 0x7FC00000#32

/-- `f32_add`. An exact sum of zero is +0.0 unless both operands are -0.0. -/
def f32Add (x y : Binary32) : Binary32 :=
  if f32IsNaN x || f32IsNaN y then f32NaN x y
  else if f32IsInf x then (if f32IsInf y && (f32Sign x != f32Sign y) then f32NaN x y else x)
  else if f32IsInf y then y
  else
    let n := f32Units x + f32Units y
    if n = 0 then f32Pattern (f32Sign x && f32Sign y) 0
    else f32Round (decide (n < 0)) n.natAbs 1

/-- `f32_sub`. -/
def f32Sub (x y : Binary32) : Binary32 := f32Add x (f32Neg y)

/-- `f32_mul`. The sign of the result is the exclusive or of the signs. -/
def f32Mul (x y : Binary32) : Binary32 :=
  let neg := f32Sign x != f32Sign y
  if f32IsNaN x || f32IsNaN y then f32NaN x y
  else if f32IsInf x then (if f32Mag y = 0 then f32NaN x y else f32Pattern neg 0x7F800000)
  else if f32IsInf y then (if f32Mag x = 0 then f32NaN x y else f32Pattern neg 0x7F800000)
  else f32Round neg (f32Units x * f32Units y).natAbs (2 ^ 149)

/-- `trunc` of a finite binary32: its integer part, toward zero. -/
def f32Trunc (x : Binary32) : Int := (f32Units x).tdiv (2 ^ 149)

/-- `clamp` on binary32, with IEEE comparisons (R15, R112). -/
def f32Clamp (x lo hi : Binary32) : Binary32 :=
  if f32Lt x lo then lo else if f32Lt hi x then hi else x

end Sys2Proof.Machine
end

