-- ==== Sys2Proof/Machine/Operands.lean ====
section
/-! DEFINITION. Integer notation of R15 and every operand form of R52: what the fields of a command mean
as values of registers. U8, U16, V7 and S8 operands are the field itself; signed registers are read with
`BitVec.toInt`. -/

namespace Sys2Proof.Machine

/-- `clamp(x, lo, hi)` (R15). -/
def clamp (x lo hi : Int) : Int := if x < lo then lo else if hi < x then hi else x

/-- `asr(a, n)`: floor of a / 2^n (R15). -/
def asr (a : Int) (n : Nat) : Int := a.fdiv (2 ^ n)

/-- `a quot b`: truncated toward zero (R15). -/
def quot (a b : Int) : Int := a.tdiv b

/-- `sext_N(v)` (R15). -/
def sext (N : Nat) (v : Int) : Int :=
  let u := v.fmod (2 ^ N)
  if 2 ^ (N - 1) ≤ u then u - 2 ^ N else u

/-- A raw pan 0..127 stored signed: raw minus 64 (R64, R98). -/
def centred (raw : BitVec 7) : BitVec 7 := BitVec.ofInt 7 ((raw.toNat : Int) - 64)

/-- Operand E2 of TRK_LFOTYPE (R68); 3 is invalid. -/
def lfoTypeOf (k : BitVec 2) : Option LfoType :=
  match k with
  | 0#2 => some .pitch
  | 1#2 => some .volume
  | 2#2 => some .pan
  | _ => none

/-- Field TYPE of a NOTE (R51, R98); 3 is invalid. -/
def instrTypeOf (k : BitVec 2) : Option InstrType :=
  match k with
  | 0#2 => some .pcm
  | 1#2 => some .psg
  | 2#2 => some .noise
  | _ => none

/-- The numbers of the instrument types (R19). -/
def instrTypeCode : InstrType → BitVec 2
  | .pcm => 0
  | .psg => 1
  | .noise => 2

/-- The numbers of the LFO types (R24). -/
def lfoTypeCode : LfoType → BitVec 2
  | .pitch => 0
  | .volume => 1
  | .pan => 2

/-- The numbers of the envelope states (R19). -/
def envStateCode : EnvState → BitVec 2
  | .attack => 0
  | .decay => 1
  | .sustain => 2
  | .release => 3

/-- The numbers of the fade directions (R27). -/
def fadeDirCode : FadeDir → BitVec 2
  | .noFade => 0
  | .fadingIn => 1
  | .fadingOut => 2

/-- A track's ADSR register against the instrument's value (R98, C7): 0..127 overrides it. -/
def overrideOr (reg : BitVec 8) (inst : BitVec 7) : BitVec 7 :=
  if reg.toNat < 128 then reg.setWidth 7 else inst

/-- `clamp(KEY + transpose, 0, 127)` (R98). -/
def transposedKey (key : BitVec 7) (transpose : BitVec 8) : BitVec 7 :=
  BitVec.ofInt 7 (clamp ((key.toNat : Int) + transpose.toInt) 0 127)

/-- The master volumes SET_MASTER refuses (R103): sign bit 1, exponent all ones, or above 65536.0. -/
def masterRefused (v : Binary32) : Bool :=
  v.getLsbD 31 || bits 23 8 v == 0xFF#8 || decide (0x47800000 < v.toNat)

end Sys2Proof.Machine
end

