-- ==== Sys2Proof/Machine/Pipeline.lean ====
section
/-! DEFINITION. The functions without an opcode: the track outputs (R80 to R84), the envelope step, the
release transition and the sweep (R87, R89, R90), and one channel's pass of CH_TICK (R100). Each takes the
parameters, the registers it reads, and answers the registers it writes. -/

namespace Sys2Proof.Machine

/-- `LfoValue` (R80). The sine index is `lfoPhase[14:8]`. -/
def lfoValue (P : Params) (x : Track) : Int :=
  if x.lfoDepth = 0 ∨ 0 < x.lfoDelayCnt.toNat then 0
  else asr (sext 26 ((P.sin (x.lfoPhase.extractLsb' 8 7)).toInt * x.lfoDepth.toNat * x.lfoRange.toNat))
    P.lfoShift

/-- The LFO value where the track's LFO modulates `k`, and 0 elsewhere (R81). -/
def lfoTo (P : Params) (k : LfoType) (x : Track) : Int := if x.lfoType = k then lfoValue P x else 0

/-- `TrackVolume` (R82), logarithmic domain. -/
def trackVolume (P : Params) (x : Track) : Int :=
  P.sustainTable x.volume + P.sustainTable x.expression + lfoTo P .volume x

/-- `TrackPitch` (R83), 1/64 semitone. -/
def trackPitch (P : Params) (x : Track) : Int :=
  asr (x.pitchBend.toInt * x.bendRange.toNat) 1 + lfoTo P .pitch x

/-- `TrackPan` (R84). -/
def trackPan (P : Params) (x : Track) : Int := clamp (x.pan.toInt + lfoTo P .pan x) (-64) 63

/-- `StepEnvelope` (R87). -/
def stepEnvelope (c : Channel) : Channel :=
  match c.state with
  | .attack =>
    let e := quot ((c.atkRate.toNat : Int) * c.env) 255
    { c with env := e, state := if e = 0 then .decay else .attack }
  | .decay =>
    let e := c.env - c.decRate
    if e ≤ c.susLevel then { c with env := c.susLevel, state := .sustain } else { c with env := e }
  | .sustain => c
  | .release => { c with env := max (c.env - c.relRate) FLOOR }

/-- `ReleaseCheck` (R89) for a channel of a track whose wait-note flag is `waitNote`. A release already in
progress stays one, so R89's third test changes nothing and is kept for the reader. -/
def releaseCheck (waitNote : Bool) (c : Channel) : Channel :=
  if c.dur = 0 ∧ waitNote = false ∧ c.state ≠ .release then { c with state := .release } else c

/-- The sweep is running: `Sweep`'s second branch (R90). -/
def sweeping (c : Channel) : Bool := !(c.sweepPitch == 0 || decide (c.sweepLen.toNat ≤ c.sweepCnt.toNat))

/-- The value `Sweep` returns (R90), 1/64 semitone. -/
def sweepValue (c : Channel) : Int :=
  if sweeping c then
    quot (c.sweepPitch.toInt * ((c.sweepLen.toNat : Int) - c.sweepCnt.toNat)) c.sweepLen.toNat
  else 0

/-- What `Sweep` does to the channel (R90): with the auto-sweep flag it advances the counter. -/
def sweepAdvance (c : Channel) : Channel :=
  if sweeping c && c.autoSweep then { c with sweepCnt := c.sweepCnt + 1 } else c

/-- The combined volume of R100 step 3. -/
def combinedVolume (P : Params) (x : Track) (c : Channel) : Int :=
  P.sustainTable c.noteVel + c.env + trackVolume P x

/-- The pitch of R100 step 4. -/
def channelPitch (P : Params) (x : Track) (c : Channel) : Int :=
  ((c.key.toNat : Int) - c.baseKey.toNat) * 2 ^ 6 + sweepValue c + trackPitch P x

/-- Step 6 of R100: volume, timer and pan refreshed. -/
def refresh (P : Params) (x : Track) (vol pitch : Int) (c : Channel) : Channel :=
  { c with
    volume := P.volumeFn vol
    timer := P.timerFn c.baseTimer pitch
    pan := BitVec.ofInt 7 (clamp (c.startPan.toInt + trackPan P x) (-64) 63) }

/-- One owned channel's pass of CH_TICK (R100), steps 1 to 6; `x` is its owner's registers. -/
def chTickOwned (P : Params) (x : Track) (c : Channel) : Channel :=
  let c1 := releaseCheck x.waitNote (stepEnvelope c)
  let vol := combinedVolume P x c1
  let pitch := channelPitch P x c1
  let c2 := sweepAdvance c1
  if c2.state = .release ∧ vol ≤ FLOOR then c2.stop else refresh P x vol pitch c2

/-- One channel's pass of CH_TICK (R100): a free channel is left alone. -/
def chTickOne (P : Params) (tracks : Bank Track) (c : Channel) : Channel :=
  match c.owner with
  | none => c
  | some t => chTickOwned P tracks[t.val] c

end Sys2Proof.Machine
end

