-- ==== Sys2Proof/Machine/ChannelCommands.lean ====
section
/-! DEFINITION. The channel commands: NOTE (R98), CH_STOP (R93) and CH_TICK (R100). -/

namespace Sys2Proof.Machine

/-- The channel of a NOTE that was given one (R98): every field is written. `x` is the requesting
track's registers. -/
def startedChannel (P : Params) (n : NoteFields) (ty : InstrType) (x : Track) : Channel where
  owner := some n.t
  typ := ty
  state := .attack
  env := FLOOR
  key := transposedKey n.key x.transpose
  baseKey := n.baseKey
  noteVel := n.vel
  dur := n.dur
  atkRate := P.attackTable (overrideOr x.attack n.instAttack)
  decRate := P.decayTable (overrideOr x.decay n.instDecay)
  susLevel := P.sustainTable (overrideOr x.sustain n.instSustain)
  relRate := P.decayTable (overrideOr x.release n.instRelease)
  sweepPitch := n.sweepPitch
  sweepLen := n.sweepLen
  sweepCnt := 0
  autoSweep := n.autoSweep
  startPan := centred n.startPan
  baseTimer := n.baseTimer
  volume := 0
  pan := centred n.startPan
  timer := n.baseTimer
  oscCfg := n.oscCfg
  oscState := P.oscInit ty n.oscCfg

/-- The effect of a dropped NOTE (R98). -/
def noteDrop (t : TrackIdx) (s : State) : State := s.raiseDrop.setLastNote (lastNoteDropped t)

/-- The effect of a NOTE that was given channel `c` (R98): the old note, if there is one, is stopped, the
new one started, and both recorded. -/
def noteTake (P : Params) (n : NoteFields) (ty : InstrType) (c : ChanIdx) (s : State) : State :=
  let prev := (s.ch c).owner
  let s1 := if prev.isSome then s.stopCh c else s
  (s1.setCh c (startedChannel P n ty (s1.trk n.t))).setLastNote (lastNoteTaken n.t c prev)

/-- The effect of NOTE after its reserved-bit check (R98). -/
def noteStart (P : Params) (n : NoteFields) (s : State) : State :=
  match instrTypeOf n.typ with
  | none => noteDrop n.t s.raiseRsv
  | some ty =>
    match arbitrate P s ty n.t with
    | none => noteDrop n.t s
    | some c => noteTake P n ty c s

/-- NOTE (R98). -/
def execNote (n : NoteFields) (s : State) : Host.Outcome State Fault Refusal :=
  .next (noteStart Config.params n (s.rsvCheck (!n.reservedZero)))

/-- The effect of CH_STOP (R93): a free channel is left unchanged. -/
def chStopEffect (c : ChanIdx) (s : State) : State := if (s.ch c).owner ≠ none then s.stopCh c else s

/-- CH_STOP (R93). -/
def execChStop (rsvHi : BitVec 4) (c : ChanIdx) (rsvLo : BitVec 16) (s : State) :
    Host.Outcome State Fault Refusal :=
  .next (chStopEffect c (s.rsvCheck (rsvHi != 0 || rsvLo != 0)))

/-- The effect of CH_TICK (R100). No channel's pass reads or writes another channel or writes a track, so
the passes are one map over the channels. -/
def chTickAll (P : Params) (s : State) : State := s.mapCh (chTickOne P s.tracks)

/-- CH_TICK (R100). -/
def execChTick (rsv : BitVec 24) (s : State) : Host.Outcome State Fault Refusal :=
  .next (chTickAll Config.params (s.rsvCheck (rsv != 0)))

end Sys2Proof.Machine
end

