-- ==== Sys2Proof/Machine/ControlCommands.lean ====
section
/-! DEFINITION. The control commands of 44_control: NOP (R115), CLR_STATUS (R116) and the unknown
opcodes (R117). -/

namespace Sys2Proof.Machine

/-- NOP (R115). -/
def execNop (rsv : BitVec 24) (s : State) : Host.Outcome State Fault Refusal :=
  .next (s.rsvCheck (rsv != 0))

/-- CLR_STATUS (R116): the check runs after the clear. -/
def execClrStatus (rsv : BitVec 24) (s : State) : Host.Outcome State Fault Refusal :=
  .next (State.rsvCheck { s with st := Status.clear } (rsv != 0))

/-- An unknown opcode (R117): raises UNK and nothing else; its other bits are not checked. It is no row of
the opcode table, so the step calls it, not exec. -/
def execUnknown (_op : BitVec 8) (s : State) : Host.Outcome State Fault Refusal := .next s.raiseUnk

end Sys2Proof.Machine
end

