-- ==== Sys2Proof/Machine/Render.lean ====
section
/-! DEFINITION. The fade machine and the rendering of a buffer (R107, R108, R110 to R113), as functions of
the parameters, the mixer and the channels. -/

namespace Sys2Proof.Machine

/-- `Curve(p)` (R107). -/
def curve (P : Params) (p : Binary32) : Binary32 := if f32Lt p 0 then 0 else P.pow p

/-- `RECIP` (R14). -/
def recip (P : Params) : Binary32 := f32Recip P.spb

/-- The master level at the fade's position (R108). -/
def fadeLevel (P : Params) (m : Mixer) : Binary32 := f32Mul m.master (curve P m.fadePos)

/-- One microframe of the fade (R108): the position steps and the count goes down. -/
def fadeAdvance (m : Mixer) : Mixer :=
  { m with fadePos := f32Add m.fadePos m.fadeStep, fadeLeft := m.fadeLeft - 1 }

/-- The alternative timing of silence (R108, first test), taken when the parameter is false. -/
def lateSilence (P : Params) (m : Mixer) : Mixer :=
  if P.fadeSilenceOnCompletingCall = false ∧ m.silent = false ∧ m.fadeDir = .fadingOut ∧ m.fadeLeft = 0 then
    { m with silent := true }
  else m

/-- `FadeSetup` after the first test (R108): the buffer's starting level, its step per frame, and the mixer
afterwards. -/
def fadeRamp (P : Params) (m : Mixer) : (Binary32 × Binary32) × Mixer :=
  if m.silent then ((0, 0), m)
  else if 0 < m.fadeLeft then
    let m' := fadeAdvance m
    if P.fadeSilenceOnCompletingCall ∧ m'.fadeLeft = 0 ∧ m.fadeDir = .fadingOut then
      ((0, 0), { m' with silent := true })
    else
      ((fadeLevel P m, f32Mul (f32Sub (fadeLevel P m') (fadeLevel P m)) (recip P)), m')
  else ((m.master, f32Mul (f32Sub m.master m.master) (recip P)), m)

/-- `FadeSetup` (R108). -/
def fadeSetup (P : Params) (m : Mixer) : (Binary32 × Binary32) × Mixer := fadeRamp P (lateSilence P m)

/-- `OSC` applied to a channel (R12, R113): its sample and its next oscillator state. -/
def oscRun (P : Params) (c : Channel) : BitVec 16 × OscState := P.osc c.typ c.oscCfg c.timer c.oscState

/-- A channel after one frame (R113, R114): an owned channel's oscillator has advanced, muted or not. -/
def oscAdvance (P : Params) (c : Channel) : Channel :=
  if c.owner = none then c else { c with oscState := (oscRun P c).2 }

/-- All channels after one frame. -/
def oscAdvanceAll (P : Params) (chs : Bank Channel) : Bank Channel := bankMap (fun _ c => oscAdvance P c) chs

/-- All channels after `n` frames (R114). -/
def oscAdvanceN (P : Params) : Nat → Bank Channel → Bank Channel
  | 0, chs => chs
  | n + 1, chs => oscAdvanceN P n (oscAdvanceAll P chs)

/-- `AMP_MAX` (R14). -/
def ampMax : Int := 127

/-- `Contrib` (R110) of a sample at a channel's volume and pan, left and right. -/
def contrib (c : Channel) (smp : Int) : Int × Int :=
  let a := quot (smp * c.volume.toNat) ampMax
  (quot (a * (64 - c.pan.toInt)) 128, quot (a * (64 + c.pan.toInt)) 128)

/-- What a channel adds to a frame (R111): nothing when it is free or its owner is muted. -/
def frameContrib (P : Params) (mute : Bank Bool) (c : Channel) : Int × Int :=
  match c.owner with
  | none => (0, 0)
  | some t => if mute[t.val] then (0, 0) else contrib c (oscRun P c).1.toInt

/-- `sumL` and `sumR` of one frame (R113). -/
def frameSums (P : Params) (mute : Bank Bool) (chs : Bank Channel) : Int × Int :=
  ((allIdx.map fun i => (frameContrib P mute chs[i.val]).1).sum,
    (allIdx.map fun i => (frameContrib P mute chs[i.val]).2).sum)

/-- `Out16` (R112). The truncation of a NaN is a free value (log 10); R17 excludes it. -/
def out16 (s : Int) (level : Binary32) : BitVec 16 :=
  let x := f32Clamp (f32Mul (f32OfInt s) level) 0xC7000000#32 0x46FFFE00#32
  if f32IsNaN x then Config.freeSample x else BitVec.ofInt 16 (f32Trunc x)

/-- A frame's four bytes: left low, left high, right low, right high (R39). -/
def frameBytes (l r : BitVec 16) : List Byte :=
  [l.extractLsb' 0 8, l.extractLsb' 8 8, r.extractLsb' 0 8, r.extractLsb' 8 8]

/-- The frame loop of PROCESS (R113): the bytes of `n` frames and the channels after them. -/
def renderFrames (P : Params) (mute : Bank Bool) (step : Binary32) :
    Nat → Binary32 → Bank Channel → List Byte × Bank Channel
  | 0, _, chs => ([], chs)
  | n + 1, level, chs =>
    let sums := frameSums P mute chs
    let later := renderFrames P mute step n (f32Add level step) (oscAdvanceAll P chs)
    (frameBytes (out16 sums.1 level) (out16 sums.2 level) ++ later.1, later.2)

/-- The buffer of one PROCESS and the channels after it (R113). -/
def renderBuffer (P : Params) (s : State) : List Byte × Bank Channel :=
  let ramp := (fadeSetup P s.mix).1
  renderFrames P s.mix.mute ramp.2 P.spb ramp.1 s.channels

end Sys2Proof.Machine
end

