-- ==== Sys2Proof/Machine/MixerCommands.lean ====
section
/-! DEFINITION. The mixer commands of 43_mixer_render: TRK_MUTE (R102), SET_MASTER (R103), the fade
commands (R104 to R106), PROCESS (R113) and EMULATE (R114). -/

namespace Sys2Proof.Machine

/-- The mixer registers rewritten by `f`. -/
def State.modMix (s : State) (f : Mixer → Mixer) : State := { s with mix := f s.mix }

/-- TRK_MUTE (R102). -/
def execTrkMute (t : TrackIdx) (rsv : BitVec 19) (b : Bool) (s : State) :
    Host.Outcome State Fault Refusal :=
  .next ((s.rsvCheck (rsv != 0)).modMix fun m => { m with mute := m.mute.set t.val b })

/-- SET_MASTER (R103): a refused value leaves the register unchanged and raises RSV. -/
def execSetMaster (rsv : BitVec 24) (f : Binary32) (s : State) : Host.Outcome State Fault Refusal :=
  if masterRefused f then .next (s.rsvCheck (rsv != 0)).raiseRsv
  else .next ((s.rsvCheck (rsv != 0)).modMix fun m => { m with master := f })

/-- `f32(1 / 1920)` (R104). -/
def fadeStepIn : Binary32 := 0x3A088889#32

/-- `f32(-1 / 1920)` (R105). -/
def fadeStepOut : Binary32 := 0xBA088889#32

/-- FADE_IN (R104). -/
def execFadeIn (rsv : BitVec 24) (s : State) : Host.Outcome State Fault Refusal :=
  .next ((s.rsvCheck (rsv != 0)).modMix fun m =>
    { m with fadeDir := .fadingIn, fadePos := 0, fadeLeft := FADE_LEN, fadeStep := fadeStepIn, silent := false })

/-- FADE_OUT (R105): `silent` is kept. -/
def execFadeOut (rsv : BitVec 24) (s : State) : Host.Outcome State Fault Refusal :=
  .next ((s.rsvCheck (rsv != 0)).modMix fun m =>
    { m with fadeDir := .fadingOut, fadePos := f32One, fadeLeft := FADE_LEN, fadeStep := fadeStepOut })

/-- FADE_RESET (R106). -/
def execFadeReset (rsv : BitVec 24) (s : State) : Host.Outcome State Fault Refusal :=
  .next ((s.rsvCheck (rsv != 0)).modMix fun m =>
    { m with fadeDir := .noFade, fadePos := 0, fadeLeft := 0, fadeStep := 0, silent := false })

/-- `Emit(sink, buf)` when the flag is set (R18, R113). -/
def emitIf (flag : Bool) (buf : List Byte) (q : List (List Byte)) : List (List Byte) :=
  if flag then q ++ [buf] else q

/-- The effect of PROCESS after its reserved-bit check (R113). -/
def processBuffer (P : Params) (toRec toOut : Bool) (s : State) : State :=
  let out := renderBuffer P s
  { s with
    channels := out.2
    mix := (fadeSetup P s.mix).2
    audioQ := emitIf toOut out.1 s.audioQ
    recQ := emitIf toRec out.1 s.recQ }

/-- PROCESS (R113). -/
def execProcess (rsv : BitVec 22) (toRec toOut : Bool) (s : State) : Host.Outcome State Fault Refusal :=
  .next (processBuffer Config.params toRec toOut (s.rsvCheck (rsv != 0)))

/-- The effect of EMULATE after its reserved-bit check (R114). -/
def emulateBuffer (P : Params) (s : State) : State :=
  { s with channels := oscAdvanceN P P.spb s.channels }

/-- EMULATE (R114). -/
def execEmulate (rsv : BitVec 24) (s : State) : Host.Outcome State Fault Refusal :=
  .next (emulateBuffer Config.params (s.rsvCheck (rsv != 0)))

end Sys2Proof.Machine
end

