-- ==== Sys2Proof/Machine/TrackCommands.lean ====
section
/-! DEFINITION. The track commands of 40_track: the register writes (R61 to R77), TRK_INIT (R78) and
TRK_TICK (R79). A register write affects later commands only and changes no channel (R60). -/

namespace Sys2Proof.Machine

/-- TRK_VOLUME (R61). -/
def execTrkVolume (t : TrackIdx) (rsv : BitVec 13) (v : BitVec 7) (s : State) :
    Host.Outcome State Fault Refusal :=
  .next ((s.rsvCheck (rsv != 0)).modTrk t fun x => { x with volume := v })

/-- TRK_EXPRESSION (R62). -/
def execTrkExpression (t : TrackIdx) (rsv : BitVec 13) (v : BitVec 7) (s : State) :
    Host.Outcome State Fault Refusal :=
  .next ((s.rsvCheck (rsv != 0)).modTrk t fun x => { x with expression := v })

/-- TRK_PRIORITY (R63). -/
def execTrkPriority (t : TrackIdx) (rsv : BitVec 12) (v : BitVec 8) (s : State) :
    Host.Outcome State Fault Refusal :=
  .next ((s.rsvCheck (rsv != 0)).modTrk t fun x => { x with priority := v })

/-- TRK_PAN (R64; the raw value is stored minus 64). -/
def execTrkPan (t : TrackIdx) (rsv : BitVec 13) (v : BitVec 7) (s : State) :
    Host.Outcome State Fault Refusal :=
  .next ((s.rsvCheck (rsv != 0)).modTrk t fun x => { x with pan := centred v })

/-- TRK_TRANSPOSE (R65). -/
def execTrkTranspose (t : TrackIdx) (rsv : BitVec 12) (v : BitVec 8) (s : State) :
    Host.Outcome State Fault Refusal :=
  .next ((s.rsvCheck (rsv != 0)).modTrk t fun x => { x with transpose := v })

/-- TRK_PITCHBEND (R66). -/
def execTrkPitchbend (t : TrackIdx) (rsv : BitVec 12) (v : BitVec 8) (s : State) :
    Host.Outcome State Fault Refusal :=
  .next ((s.rsvCheck (rsv != 0)).modTrk t fun x => { x with pitchBend := v })

/-- TRK_BENDRANGE (R67). -/
def execTrkBendrange (t : TrackIdx) (rsv : BitVec 12) (v : BitVec 8) (s : State) :
    Host.Outcome State Fault Refusal :=
  .next ((s.rsvCheck (rsv != 0)).modTrk t fun x => { x with bendRange := v })

/-- TRK_LFOTYPE (R68): the value 3 leaves the register unchanged and raises RSV. -/
def execTrkLfotype (t : TrackIdx) (rsv : BitVec 18) (k : BitVec 2) (s : State) :
    Host.Outcome State Fault Refusal :=
  match lfoTypeOf k with
  | none => .next (s.rsvCheck (rsv != 0)).raiseRsv
  | some ty => .next ((s.rsvCheck (rsv != 0)).modTrk t fun x => { x with lfoType := ty })

/-- TRK_LFODEPTH (R69). -/
def execTrkLfodepth (t : TrackIdx) (rsv : BitVec 12) (v : BitVec 8) (s : State) :
    Host.Outcome State Fault Refusal :=
  .next ((s.rsvCheck (rsv != 0)).modTrk t fun x => { x with lfoDepth := v })

/-- TRK_LFOSPEED (R70). -/
def execTrkLfospeed (t : TrackIdx) (rsv : BitVec 12) (v : BitVec 8) (s : State) :
    Host.Outcome State Fault Refusal :=
  .next ((s.rsvCheck (rsv != 0)).modTrk t fun x => { x with lfoSpeed := v })

/-- TRK_LFORANGE (R71). -/
def execTrkLforange (t : TrackIdx) (rsv : BitVec 12) (v : BitVec 8) (s : State) :
    Host.Outcome State Fault Refusal :=
  .next ((s.rsvCheck (rsv != 0)).modTrk t fun x => { x with lfoRange := v })

/-- TRK_LFODELAY (R72; the delay counter is not reloaded). -/
def execTrkLfodelay (t : TrackIdx) (rsv : BitVec 4) (v : BitVec 16) (s : State) :
    Host.Outcome State Fault Refusal :=
  .next ((s.rsvCheck (rsv != 0)).modTrk t fun x => { x with lfoDelay := v })

/-- TRK_ATTACK (R73). -/
def execTrkAttack (t : TrackIdx) (rsv : BitVec 12) (v : BitVec 8) (s : State) :
    Host.Outcome State Fault Refusal :=
  .next ((s.rsvCheck (rsv != 0)).modTrk t fun x => { x with attack := v })

/-- TRK_DECAY (R74). -/
def execTrkDecay (t : TrackIdx) (rsv : BitVec 12) (v : BitVec 8) (s : State) :
    Host.Outcome State Fault Refusal :=
  .next ((s.rsvCheck (rsv != 0)).modTrk t fun x => { x with decay := v })

/-- TRK_SUSTAIN (R75). -/
def execTrkSustain (t : TrackIdx) (rsv : BitVec 12) (v : BitVec 8) (s : State) :
    Host.Outcome State Fault Refusal :=
  .next ((s.rsvCheck (rsv != 0)).modTrk t fun x => { x with sustain := v })

/-- TRK_RELEASE (R76). -/
def execTrkRelease (t : TrackIdx) (rsv : BitVec 12) (v : BitVec 8) (s : State) :
    Host.Outcome State Fault Refusal :=
  .next ((s.rsvCheck (rsv != 0)).modTrk t fun x => { x with release := v })

/-- TRK_WAITNOTE (R77). -/
def execTrkWaitnote (t : TrackIdx) (rsv : BitVec 19) (b : Bool) (s : State) :
    Host.Outcome State Fault Refusal :=
  .next ((s.rsvCheck (rsv != 0)).modTrk t fun x => { x with waitNote := b })

/-- A channel under TRK_INIT of track `t` (R78): stopped if `t` owns it. -/
def initChannel (t : TrackIdx) (c : Channel) : Channel := if c.owner = some t then c.stop else c

/-- The effect of TRK_INIT (R78). The mute flag is the mixer's and is kept. -/
def trackInit (t : TrackIdx) (s : State) : State := (s.setTrk t Track.defaults).mapCh (initChannel t)

/-- TRK_INIT (R78). -/
def execTrkInit (t : TrackIdx) (rsv : BitVec 20) (s : State) : Host.Outcome State Fault Refusal :=
  .next (trackInit t (s.rsvCheck (rsv != 0)))

/-- `dur` after a tick of the owner (R79): a duration that is 0 or negative stays. -/
def tickDur (dur : BitVec 32) : BitVec 32 := if 0 < dur.toInt then dur - 1 else dur

/-- `sweepCnt` after a tick of the owner (R79): with the auto-sweep flag CH_TICK advances it instead. -/
def tickSweepCnt (c : Channel) : BitVec 16 :=
  if c.autoSweep = false ∧ c.sweepCnt.toNat < c.sweepLen.toNat then c.sweepCnt + 1 else c.sweepCnt

/-- A channel under TRK_TICK of track `t` (R79): one the track does not own is not touched. -/
def tickChannel (t : TrackIdx) (c : Channel) : Channel :=
  if c.owner = some t then { c with dur := tickDur c.dur, sweepCnt := tickSweepCnt c } else c

/-- `(lfoPhase + lfoSpeed * 64) mod 0x8000` (R79). -/
def nextPhase (x : Track) : BitVec 15 := BitVec.ofNat 15 (x.lfoPhase.toNat + x.lfoSpeed.toNat * 64)

/-- The LFO of a track that owns a channel (R79): the delay counts down, then the phase advances. -/
def tickLfo (x : Track) : Track :=
  if 0 < x.lfoDelayCnt.toNat then { x with lfoDelayCnt := x.lfoDelayCnt - 1 }
  else { x with lfoPhase := nextPhase x }

/-- The LFO of a track that owns no channel (R79): the phase is reset and the counter reloaded. -/
def idleLfo (x : Track) : Track := { x with lfoPhase := 0, lfoDelayCnt := x.lfoDelay }

/-- The effect of TRK_TICK (R79). -/
def trackTick (t : TrackIdx) (s : State) : State :=
  if s.owned t ≠ [] then (s.mapCh (tickChannel t)).modTrk t tickLfo else s.modTrk t idleLfo

/-- TRK_TICK (R79). -/
def execTrkTick (t : TrackIdx) (rsv : BitVec 20) (s : State) : Host.Outcome State Fault Refusal :=
  .next (trackTick t (s.rsvCheck (rsv != 0)))

end Sys2Proof.Machine
end

