-- ==== Sys2Proof/Machine/Dispatch.lean ====
section
/-! DEFINITION. One arm per command, each a direct call of its meaning. -/

namespace Sys2Proof.Machine

def exec (i : Instr) (s : State) : Host.Outcome State Fault Refusal :=
  match i with
  | .nop rsv => Sys2Proof.Machine.execNop rsv s
  | .trkInit t rsv => Sys2Proof.Machine.execTrkInit t rsv s
  | .trkVolume t rsv v => Sys2Proof.Machine.execTrkVolume t rsv v s
  | .trkExpression t rsv v => Sys2Proof.Machine.execTrkExpression t rsv v s
  | .trkPriority t rsv v => Sys2Proof.Machine.execTrkPriority t rsv v s
  | .trkPan t rsv v => Sys2Proof.Machine.execTrkPan t rsv v s
  | .trkTranspose t rsv v => Sys2Proof.Machine.execTrkTranspose t rsv v s
  | .trkPitchbend t rsv v => Sys2Proof.Machine.execTrkPitchbend t rsv v s
  | .trkBendrange t rsv v => Sys2Proof.Machine.execTrkBendrange t rsv v s
  | .trkLfotype t rsv k => Sys2Proof.Machine.execTrkLfotype t rsv k s
  | .trkLfodepth t rsv v => Sys2Proof.Machine.execTrkLfodepth t rsv v s
  | .trkLfospeed t rsv v => Sys2Proof.Machine.execTrkLfospeed t rsv v s
  | .trkLforange t rsv v => Sys2Proof.Machine.execTrkLforange t rsv v s
  | .trkLfodelay t rsv v => Sys2Proof.Machine.execTrkLfodelay t rsv v s
  | .trkAttack t rsv v => Sys2Proof.Machine.execTrkAttack t rsv v s
  | .trkDecay t rsv v => Sys2Proof.Machine.execTrkDecay t rsv v s
  | .trkSustain t rsv v => Sys2Proof.Machine.execTrkSustain t rsv v s
  | .trkRelease t rsv v => Sys2Proof.Machine.execTrkRelease t rsv v s
  | .trkWaitnote t rsv b => Sys2Proof.Machine.execTrkWaitnote t rsv b s
  | .trkMute t rsv b => Sys2Proof.Machine.execTrkMute t rsv b s
  | .trkTick t rsv => Sys2Proof.Machine.execTrkTick t rsv s
  | .note n => Sys2Proof.Machine.execNote n s
  | .chStop rsvHi c rsvLo => Sys2Proof.Machine.execChStop rsvHi c rsvLo s
  | .chTick rsv => Sys2Proof.Machine.execChTick rsv s
  | .process rsv toRec toOut => Sys2Proof.Machine.execProcess rsv toRec toOut s
  | .emulate rsv => Sys2Proof.Machine.execEmulate rsv s
  | .fadeIn rsv => Sys2Proof.Machine.execFadeIn rsv s
  | .fadeOut rsv => Sys2Proof.Machine.execFadeOut rsv s
  | .fadeReset rsv => Sys2Proof.Machine.execFadeReset rsv s
  | .setMaster rsv f => Sys2Proof.Machine.execSetMaster rsv f s
  | .clrStatus rsv => Sys2Proof.Machine.execClrStatus rsv s

end Sys2Proof.Machine
end

