-- ==== Sys2Proof/Machine/StatusWindow.lean ====
section
/-! DEFINITION. The status window (R36, R37): the word at each offset, built from the state. Bits not
listed read 0. -/

namespace Sys2Proof.Machine

/-- Bit i set for every index i with `f i`. -/
def bitPerIdx (f : Fin 16 → Bool) : Word :=
  allIdx.foldl (fun w i => if f i then w ||| 1#32 <<< i.val else w) 0#32

/-- STATUS: unk, rsv, drop, silent, fadeDir. -/
def statusReg (s : State) : Word :=
  pack (0#26 ++ fadeDirCode s.mix.fadeDir ++ BitVec.ofBool s.mix.silent ++ BitVec.ofBool s.st.drop ++
    BitVec.ofBool s.st.rsv ++ BitVec.ofBool s.st.unk) rfl

/-- MUTE. -/
def muteReg (s : State) : Word := bitPerIdx fun t => s.mix.mute[t.val]

/-- BUSY. -/
def busyReg (s : State) : Word := bitPerIdx fun c => (s.ch c).owner.isSome

/-- TRKMASK[t]. -/
def trkMaskReg (s : State) (t : TrackIdx) : Word := bitPerIdx fun c => decide ((s.ch c).owner = some t)

/-- TRKLFO[t]: phase and delay counter. -/
def trkLfoReg (x : Track) : Word := pack (x.lfoDelayCnt ++ 0#1 ++ x.lfoPhase) rfl

/-- TRKA[t]: volume, expression, priority, pan. -/
def trkAReg (x : Track) : Word :=
  pack (x.pan.signExtend 8 ++ x.priority ++ 0#1 ++ x.expression ++ 0#1 ++ x.volume) rfl

/-- TRKB[t]: transpose, pitchBend, bendRange, lfoType, waitNote. -/
def trkBReg (x : Track) : Word :=
  pack (0#5 ++ BitVec.ofBool x.waitNote ++ lfoTypeCode x.lfoType ++ x.bendRange ++ x.pitchBend ++
    x.transpose) rfl

/-- TRKC[t]: lfoDepth, lfoSpeed, lfoRange. -/
def trkCReg (x : Track) : Word := pack (0#8 ++ x.lfoRange ++ x.lfoSpeed ++ x.lfoDepth) rfl

/-- TRKD[t]: attack, decay, sustain, release. -/
def trkDReg (x : Track) : Word := pack (x.release ++ x.sustain ++ x.decay ++ x.attack) rfl

/-- TRKE[t]: lfoDelay. -/
def trkEReg (x : Track) : Word := pack (0#16 ++ x.lfoDelay) rfl

/-- CHCTRL[c]: busy, owner (0 when none), state, type, key, noteVel, autoSweep. -/
def chCtrlReg (c : Channel) : Word :=
  pack (0#5 ++ BitVec.ofBool c.autoSweep ++ c.noteVel ++ c.key ++ instrTypeCode c.typ ++
    envStateCode c.state ++ idxBits (c.owner.getD 0) ++ 0#3 ++ BitVec.ofBool c.owner.isSome) rfl

/-- CHOUT[c]: volume, pan, timer. -/
def chOutReg (c : Channel) : Word := pack (c.timer ++ c.pan.signExtend 8 ++ 0#1 ++ c.volume) rfl

/-- CHSWEEP[c]: sweepPitch, sweepCnt. -/
def chSweepReg (c : Channel) : Word := pack (c.sweepCnt ++ c.sweepPitch) rfl

/-- CHSWL[c]: sweepLen, baseKey, startPan. -/
def chSwlReg (c : Channel) : Word :=
  pack (c.startPan.signExtend 8 ++ 0#1 ++ c.baseKey ++ c.sweepLen) rfl

/-- Register `k` (0 to 7) of a channel's eight words. -/
def channelReg (c : Channel) (k : Nat) : Word :=
  match k with
  | 0 => chCtrlReg c
  | 1 => BitVec.ofInt 32 c.env
  | 2 => chOutReg c
  | 3 => c.dur
  | 4 => chSweepReg c
  | 5 => chSwlReg c
  | 6 => pack (0#16 ++ c.baseTimer) rfl
  | 7 => c.oscCfg
  | _ => 0

/-- Register bank `k` (0 to 6) of track `t`, from offset 0x040 on. -/
def trackReg (s : State) (k : Nat) (t : TrackIdx) : Word :=
  match k with
  | 0 => trkMaskReg s t
  | 1 => trkLfoReg (s.trk t)
  | 2 => trkAReg (s.trk t)
  | 3 => trkBReg (s.trk t)
  | 4 => trkCReg (s.trk t)
  | 5 => trkDReg (s.trk t)
  | 6 => trkEReg (s.trk t)
  | _ => 0

/-- The registers below offset 0x040, by word number. CMD reads 0. -/
def globalReg (s : State) (k : Nat) : Word :=
  match k with
  | 1 => statusReg s
  | 2 => s.st.lastNote
  | 3 => BitVec.ofNat 32 s.mix.fadeLeft
  | 4 => s.mix.master
  | 5 => muteReg s
  | 6 => busyReg s
  | _ => 0

/-- `StatusRead(off)` (R36, R37) at an aligned offset below 0x400. -/
def statusRead (s : State) (off : Nat) : Word :=
  if off < 0x40 then globalReg s (off / 4)
  else if off < 0x200 then trackReg s (off / 0x40 - 1) (Fin.ofNat 16 (off / 4))
  else channelReg (s.ch (Fin.ofNat 16 ((off - 0x200) / 32))) (off / 4 % 8)

end Sys2Proof.Machine
end

