-- ==== Sys2Proof/Machine/HostPort.lean ====
section
/-! DEFINITION. What the host can do to the block (R38, R40, R129): bus accesses to the window, buffer
removal, reset. -/

namespace Sys2Proof.Machine

/-- The access is one the window has (R40): 32 bits, at a 4-byte-aligned offset below 0x400. -/
def accessOk (P : Params) (addr width : Nat) : Bool :=
  width == 4 && decide (P.blockBase ≤ addr) && decide (addr - P.blockBase < 0x400) &&
    (addr - P.blockBase) % 4 == 0

/-- A write the window has (R38): to CMD it appends the word to the stream, elsewhere it is ignored. -/
def windowWrite (off : Nat) (data : Word) (s : State) : State :=
  if off = 0 then { s with stream := s.stream ++ [data] } else s

/-- A read the window has (R37): the host gets the word; the block is unchanged. -/
def windowRead (off : Nat) (s : State) : State := { s with rx := s.rx ++ [statusRead s off] }

/-- Reset (R131, R132): every register to its reset value and the words of a command partly received
discarded. What the host has seen and will do is not the block's and is kept. -/
def hostReset (P : Params) (s : State) : State := { State.resetWith P with host := s.host, rx := s.rx }

/-- One action of the host. -/
def hostAct (P : Params) (a : HostAction) (s : State) : Host.Outcome State Fault Refusal :=
  match a with
  | .write addr width data =>
    if accessOk P addr width then .next (windowWrite (addr - P.blockBase) data s)
    else .refused .accessRefused
  | .read addr width =>
    if accessOk P addr width then .next (windowRead (addr - P.blockBase) s)
    else .refused .accessRefused
  | .takeAudio => .next { s with audioQ := s.audioQ.tail }
  | .takeRec => .next { s with recQ := s.recQ.tail }
  | .reset => .next (hostReset P s)

/-- The step when no complete command stands in the stream: the host's next action, and with none the
block is idle and holds all state (R128), waiting if a command is partly received (R56). -/
def hostStep (s : State) : Host.Outcome State Fault Refusal :=
  match s.host with
  | [] => .next s
  | a :: later => hostAct Config.params a { s with host := later }

end Sys2Proof.Machine
end

