-- ==== Sys2Proof/Machine/Step.lean ====
section
/-! DEFINITION. One step: the block executes the command at the head of its stream as soon as all its
words are there (R44, D47), and otherwise the host acts. -/

namespace Sys2Proof.Machine

/-- One step (R139: one command per step). The words of a command are consumed, then it executes (R32). -/
def step (s : State) : Host.Outcome State Fault Refusal :=
  match decode s.stream with
  | .command i rest => exec i (s.consume rest)
  | .unknown op rest => execUnknown op (s.consume rest)
  | .incomplete => hostStep s

/-- The words of one opcode-table row, put before the words of the stream: the next step executes them. -/
def State.withFetchWord (s : State) (nbits w : Nat) : State :=
  { s with stream := tableWords nbits w ++ s.stream }

end Sys2Proof.Machine
end

