-- ==== Sys2Proof/Machine/Assembly.lean ====
section
/-! DEFINITION. Assembly syntax (R57), written and read, and the pseudo-instructions of R58 as the commands
they expand to. Assembled commands have every reserved bit 0 (R57). -/

namespace Sys2Proof.Machine

/-- `TRK_ADSR t, a, d, s, r` (R58). -/
def asmTrkAdsr (t : TrackIdx) (a d s r : BitVec 8) : List Instr :=
  [.trkAttack t 0 a, .trkDecay t 0 d, .trkSustain t 0 s, .trkRelease t 0 r]

/-- `TRK_LFO t, type, depth, speed, range, delay` (R58). -/
def asmTrkLfo (t : TrackIdx) (k : LfoType) (depth speed range : BitVec 8) (delay : BitVec 16) : List Instr :=
  [.trkLfotype t 0 (lfoTypeCode k), .trkLfodepth t 0 depth, .trkLfospeed t 0 speed, .trkLforange t 0 range,
    .trkLfodelay t 0 delay]

/-- `NOTE_OFF c` (R58). -/
def asmNoteOff (c : ChanIdx) : List Instr := [.chStop 0 c 0]

/-- `FRAME flags, t_a, ..., t_k` (R58): the tail of one tick of the host's protocol (R129). -/
def asmFrame (toRec toOut : Bool) (ts : List TrackIdx) : List Instr :=
  ts.map (fun t => .trkTick t 0) ++ [.chTick 0, .process 0 toRec toOut]

/-- The words of a list of commands, in order. -/
def assemble (is : List Instr) : List Word := is.flatMap encode

/-- A line of assembly: the mnemonic and the operands separated by commas. -/
def asmLine (mnemonic : String) (operands : List String) : String :=
  if operands.isEmpty then mnemonic else mnemonic ++ " " ++ ", ".intercalate operands

/-- A track operand, `t0` to `t15`. -/
def asmTrack (t : TrackIdx) : String := "t" ++ toString t.val

/-- An unsigned number in decimal. -/
def asmNat {n : Nat} (v : BitVec n) : String := toString v.toNat

/-- A signed number in decimal. -/
def asmInt {n : Nat} (v : BitVec n) : String := toString v.toInt

/-- A flag, `0` or `1`. -/
def asmFlag (b : Bool) : String := if b then "1" else "0"

/-- The operand of PROCESS: `0`, `OUT`, `REC` or `OUT|REC`. -/
def asmSinks (toRec toOut : Bool) : String :=
  match toOut, toRec with
  | false, false => "0"
  | true, false => "OUT"
  | false, true => "REC"
  | true, true => "OUT|REC"

/-- The operand of TRK_LFOTYPE; the invalid value 3 has no name and is written as a number. -/
def asmLfoType (k : BitVec 2) : String :=
  match lfoTypeOf k with
  | some .pitch => "PITCH"
  | some .volume => "VOLUME"
  | some .pan => "PAN"
  | none => "3"

/-- The TYPE of a NOTE; the invalid value 3 has no name and is written as a number. -/
def asmInstrType (k : BitVec 2) : String :=
  match instrTypeOf k with
  | some .pcm => "PCM"
  | some .psg => "PSG"
  | some .noise => "NOISE"
  | none => "3"

/-- The operands of a NOTE in R57's order. -/
def asmNoteOperands (n : NoteFields) : List String :=
  [asmTrack n.t, asmInstrType n.typ, asmNat n.key, asmNat n.vel, asmInt n.dur, asmNat n.baseTimer,
    asmNat n.baseKey, asmNat n.startPan, asmNat n.instAttack, asmNat n.instDecay, asmNat n.instSustain,
    asmNat n.instRelease, asmInt n.sweepPitch, asmNat n.sweepLen, asmFlag n.autoSweep, asmNat n.oscCfg]

/-- The assembly text of a command (R57). Reserved bits have no place in it. The operand of SET_MASTER is
written as its bit pattern. -/
def asmText : Instr → String
  | .nop _ => asmLine "NOP" []
  | .trkInit t _ => asmLine "TRK_INIT" [asmTrack t]
  | .trkVolume t _ v => asmLine "TRK_VOLUME" [asmTrack t, asmNat v]
  | .trkExpression t _ v => asmLine "TRK_EXPRESSION" [asmTrack t, asmNat v]
  | .trkPriority t _ v => asmLine "TRK_PRIORITY" [asmTrack t, asmNat v]
  | .trkPan t _ v => asmLine "TRK_PAN" [asmTrack t, asmNat v]
  | .trkTranspose t _ v => asmLine "TRK_TRANSPOSE" [asmTrack t, asmInt v]
  | .trkPitchbend t _ v => asmLine "TRK_PITCHBEND" [asmTrack t, asmInt v]
  | .trkBendrange t _ v => asmLine "TRK_BENDRANGE" [asmTrack t, asmNat v]
  | .trkLfotype t _ k => asmLine "TRK_LFOTYPE" [asmTrack t, asmLfoType k]
  | .trkLfodepth t _ v => asmLine "TRK_LFODEPTH" [asmTrack t, asmNat v]
  | .trkLfospeed t _ v => asmLine "TRK_LFOSPEED" [asmTrack t, asmNat v]
  | .trkLforange t _ v => asmLine "TRK_LFORANGE" [asmTrack t, asmNat v]
  | .trkLfodelay t _ v => asmLine "TRK_LFODELAY" [asmTrack t, asmNat v]
  | .trkAttack t _ v => asmLine "TRK_ATTACK" [asmTrack t, asmNat v]
  | .trkDecay t _ v => asmLine "TRK_DECAY" [asmTrack t, asmNat v]
  | .trkSustain t _ v => asmLine "TRK_SUSTAIN" [asmTrack t, asmNat v]
  | .trkRelease t _ v => asmLine "TRK_RELEASE" [asmTrack t, asmNat v]
  | .trkWaitnote t _ b => asmLine "TRK_WAITNOTE" [asmTrack t, asmFlag b]
  | .trkMute t _ b => asmLine "TRK_MUTE" [asmTrack t, asmFlag b]
  | .trkTick t _ => asmLine "TRK_TICK" [asmTrack t]
  | .note n => asmLine "NOTE" (asmNoteOperands n)
  | .chStop _ c _ => asmLine "CH_STOP" ["c" ++ toString c.val]
  | .chTick _ => asmLine "CH_TICK" []
  | .process _ toRec toOut => asmLine "PROCESS" [asmSinks toRec toOut]
  | .emulate _ => asmLine "EMULATE" []
  | .fadeIn _ => asmLine "FADE_IN" []
  | .fadeOut _ => asmLine "FADE_OUT" []
  | .fadeReset _ => asmLine "FADE_RESET" []
  | .setMaster _ f => asmLine "SET_MASTER" ["0x" ++ String.ofList (f.toHex.toList)]
  | .clrStatus _ => asmLine "CLR_STATUS" []

/-! ### Reading assembly text (R57, R58) -/

/-- A character that separates nothing but words. -/
def asmBlank (c : Char) : Bool := c == ' ' || c == '\t'

/-- A word without the blanks around it. -/
def asmTrim (cs : List Char) : List Char := ((cs.dropWhile asmBlank).reverse.dropWhile asmBlank).reverse

/-- The operands of a line, parted by commas. -/
def asmSplit : List Char → List (List Char)
  | [] => [[]]
  | c :: cs =>
    match asmSplit cs with
    | [] => [[c]]
    | w :: ws => if c == ',' then [] :: w :: ws else (c :: w) :: ws

/-- The value of a digit. -/
def asmDigit (c : Char) : Option Nat :=
  if '0' ≤ c ∧ c ≤ '9' then some (c.toNat - 48)
  else if 'a' ≤ c ∧ c ≤ 'f' then some (c.toNat - 87)
  else if 'A' ≤ c ∧ c ≤ 'F' then some (c.toNat - 55)
  else none

/-- The number a list of digits writes in base `b`, above `acc`. -/
def asmDigits (b : Nat) : Nat → List Char → Option Nat
  | acc, [] => some acc
  | acc, c :: cs =>
    match asmDigit c with
    | some d => if d < b then asmDigits b (acc * b + d) cs else none
    | none => none

/-- A number: decimal, or hexadecimal with `0x`. -/
def asmReadNat (cs : List Char) : Option Nat :=
  match cs with
  | [] => none
  | '0' :: 'x' :: d :: ds => asmDigits 16 0 (d :: ds)
  | d :: ds => asmDigits 10 0 (d :: ds)

/-- A number that may be negative. -/
def asmReadInt (cs : List Char) : Option Int :=
  match cs with
  | '-' :: ds => (asmReadNat ds).map fun n => -(n : Int)
  | ds => (asmReadNat ds).map fun n => (n : Int)

/-- An unsigned operand of `n` bits. -/
def asmU (n : Nat) (cs : List Char) : Option (BitVec n) :=
  match asmReadNat cs with
  | some v => if v < 2 ^ n then some (BitVec.ofNat n v) else none
  | none => none

/-- A signed operand of `n` bits. -/
def asmS (n : Nat) (cs : List Char) : Option (BitVec n) :=
  match asmReadInt cs with
  | some v => if -(2 ^ (n - 1)) ≤ v ∧ v < 2 ^ (n - 1) then some (BitVec.ofInt n v) else none
  | none => none

/-- A flag operand, `0` or `1`. -/
def asmReadFlag (cs : List Char) : Option Bool :=
  match cs with
  | ['0'] => some false
  | ['1'] => some true
  | _ => none

/-- `t0` to `t15`, or `c0` to `c15`: the letter and an index. -/
def asmIdx (letter : Char) (cs : List Char) : Option (Fin 16) :=
  match cs with
  | c :: ds =>
    if c == letter then
      match asmDigits 10 0 ds with
      | some n => if h : n < 16 ∧ ds ≠ [] then some ⟨n, h.1⟩ else none
      | none => none
    else none
  | [] => none

/-- The operand of TRK_LFOTYPE. -/
def asmReadLfoType (cs : List Char) : Option (BitVec 2) :=
  if cs = ['P', 'I', 'T', 'C', 'H'] then some 0
  else if cs = ['V', 'O', 'L', 'U', 'M', 'E'] then some 1
  else if cs = ['P', 'A', 'N'] then some 2
  else none

/-- The TYPE operand of NOTE. -/
def asmReadInstrType (cs : List Char) : Option (BitVec 2) :=
  if cs = ['P', 'C', 'M'] then some 0
  else if cs = ['P', 'S', 'G'] then some 1
  else if cs = ['N', 'O', 'I', 'S', 'E'] then some 2
  else none

/-- The operand of PROCESS: the REC and the OUT flag. -/
def asmReadSinks (cs : List Char) : Option (Bool × Bool) :=
  if cs = ['0'] then some (false, false)
  else if cs = ['O', 'U', 'T'] then some (false, true)
  else if cs = ['R', 'E', 'C'] then some (true, false)
  else if cs = ['O', 'U', 'T', '|', 'R', 'E', 'C'] then some (true, true)
  else none

/-- A decimal real without its sign, rounded by `f32`; a `0x` word is the bit pattern itself. -/
def asmReadReal (neg : Bool) (cs : List Char) : Option Binary32 :=
  let whole := cs.takeWhile (· != '.')
  let frac := (cs.dropWhile (· != '.')).drop 1
  if whole = [] ∧ frac = [] then none
  else
    match asmDigits 10 0 (whole ++ frac) with
    | some n => some (f32Round neg (n * 2 ^ 149) (10 ^ frac.length))
    | none => none

/-- The operand of SET_MASTER. -/
def asmReadMaster (cs : List Char) : Option Binary32 :=
  match cs with
  | '0' :: 'x' :: _ => asmU 32 cs
  | '-' :: ds => asmReadReal true ds
  | ds => asmReadReal false ds

/-- The operands of NOTE in R57's order. -/
def asmReadNote (ops : List (List Char)) : Option NoteFields :=
  match ops with
  | [t, ty, key, vel, dur, btimer, bkey, span, ia, id, is, ir, swp, swl, as, osccfg] => do
    return { t := ← asmIdx 't' t, typ := ← asmReadInstrType ty, key := ← asmU 7 key, vel := ← asmU 7 vel
             dur := ← asmS 32 dur, baseTimer := ← asmU 16 btimer, baseKey := ← asmU 7 bkey
             startPan := ← asmU 7 span, instAttack := ← asmU 7 ia, instDecay := ← asmU 7 id
             instSustain := ← asmU 7 is, instRelease := ← asmU 7 ir, sweepPitch := ← asmS 16 swp
             sweepLen := ← asmU 16 swl, autoSweep := ← asmReadFlag as, oscCfg := ← asmU 32 osccfg
             rsvA := 0, rsvB := 0, rsvC := 0, rsvD := 0, rsvE := 0, rsvF := 0, rsvG := 0, rsvH := 0 }
  | _ => none

/-- A command with a track and one more operand. -/
def asmReadTI {α : Type} (mk : TrackIdx → α → Instr) (f : List Char → Option α) (ops : List (List Char)) :
    Option (List Instr) :=
  match ops with
  | [t, v] => do return [mk (← asmIdx 't' t) (← f v)]
  | _ => none

/-- A command without operands. -/
def asmReadN (i : Instr) (ops : List (List Char)) : Option (List Instr) :=
  match ops with
  | [] => some [i]
  | _ => none

/-- The commands of one mnemonic and its operands; a pseudo-instruction stands for several. -/
def asmReadOps (mnemonic : List Char) (ops : List (List Char)) : Option (List Instr) :=
  let m := String.ofList mnemonic
  if m = "NOP" then asmReadN (.nop 0) ops
  else if m = "TRK_INIT" then match ops with
    | [t] => do return [.trkInit (← asmIdx 't' t) 0]
    | _ => none
  else if m = "TRK_VOLUME" then asmReadTI (fun t v => .trkVolume t 0 v) (asmU 7) ops
  else if m = "TRK_EXPRESSION" then asmReadTI (fun t v => .trkExpression t 0 v) (asmU 7) ops
  else if m = "TRK_PRIORITY" then asmReadTI (fun t v => .trkPriority t 0 v) (asmU 8) ops
  else if m = "TRK_PAN" then asmReadTI (fun t v => .trkPan t 0 v) (asmU 7) ops
  else if m = "TRK_TRANSPOSE" then asmReadTI (fun t v => .trkTranspose t 0 v) (asmS 8) ops
  else if m = "TRK_PITCHBEND" then asmReadTI (fun t v => .trkPitchbend t 0 v) (asmS 8) ops
  else if m = "TRK_BENDRANGE" then asmReadTI (fun t v => .trkBendrange t 0 v) (asmU 8) ops
  else if m = "TRK_LFOTYPE" then asmReadTI (fun t v => .trkLfotype t 0 v) asmReadLfoType ops
  else if m = "TRK_LFODEPTH" then asmReadTI (fun t v => .trkLfodepth t 0 v) (asmU 8) ops
  else if m = "TRK_LFOSPEED" then asmReadTI (fun t v => .trkLfospeed t 0 v) (asmU 8) ops
  else if m = "TRK_LFORANGE" then asmReadTI (fun t v => .trkLforange t 0 v) (asmU 8) ops
  else if m = "TRK_LFODELAY" then asmReadTI (fun t v => .trkLfodelay t 0 v) (asmU 16) ops
  else if m = "TRK_ATTACK" then asmReadTI (fun t v => .trkAttack t 0 v) (asmU 8) ops
  else if m = "TRK_DECAY" then asmReadTI (fun t v => .trkDecay t 0 v) (asmU 8) ops
  else if m = "TRK_SUSTAIN" then asmReadTI (fun t v => .trkSustain t 0 v) (asmU 8) ops
  else if m = "TRK_RELEASE" then asmReadTI (fun t v => .trkRelease t 0 v) (asmU 8) ops
  else if m = "TRK_WAITNOTE" then asmReadTI (fun t v => .trkWaitnote t 0 v) asmReadFlag ops
  else if m = "TRK_MUTE" then asmReadTI (fun t v => .trkMute t 0 v) asmReadFlag ops
  else if m = "TRK_TICK" then match ops with
    | [t] => do return [.trkTick (← asmIdx 't' t) 0]
    | _ => none
  else if m = "NOTE" then (asmReadNote ops).map fun n => [.note n]
  else if m = "CH_STOP" then match ops with
    | [c] => do return [.chStop 0 (← asmIdx 'c' c) 0]
    | _ => none
  else if m = "CH_TICK" then asmReadN (.chTick 0) ops
  else if m = "PROCESS" then match ops with
    | [f] => do
      let sinks ← asmReadSinks f
      return [.process 0 sinks.1 sinks.2]
    | _ => none
  else if m = "EMULATE" then asmReadN (.emulate 0) ops
  else if m = "FADE_IN" then asmReadN (.fadeIn 0) ops
  else if m = "FADE_OUT" then asmReadN (.fadeOut 0) ops
  else if m = "FADE_RESET" then asmReadN (.fadeReset 0) ops
  else if m = "SET_MASTER" then match ops with
    | [v] => do return [.setMaster 0 (← asmReadMaster v)]
    | _ => none
  else if m = "CLR_STATUS" then asmReadN (.clrStatus 0) ops
  else if m = "TRK_ADSR" then match ops with
    | [t, a, d, s, r] => do
      return asmTrkAdsr (← asmIdx 't' t) (← asmU 8 a) (← asmU 8 d) (← asmU 8 s) (← asmU 8 r)
    | _ => none
  else if m = "TRK_LFO" then match ops with
    | [t, k, depth, speed, range, delay] => do
      return asmTrkLfo (← asmIdx 't' t) (← (asmReadLfoType k).bind lfoTypeOf) (← asmU 8 depth) (← asmU 8 speed)
        (← asmU 8 range) (← asmU 16 delay)
    | _ => none
  else if m = "NOTE_OFF" then match ops with
    | [c] => do return asmNoteOff (← asmIdx 'c' c)
    | _ => none
  else if m = "FRAME" then match ops with
    | f :: ts => do
      let sinks ← asmReadSinks f
      return asmFrame sinks.1 sinks.2 (← ts.mapM (asmIdx 't'))
    | _ => none
  else none

/-- One line of assembly: blank or a comment, a command, or a pseudo-instruction. -/
def asmRead (line : List Char) : Option (List Instr) :=
  let code := asmTrim (line.takeWhile (· != ';'))
  let mnemonic := code.takeWhile fun c => !asmBlank c
  let rest := asmTrim (code.dropWhile fun c => !asmBlank c)
  if mnemonic = [] then some []
  else asmReadOps mnemonic (if rest = [] then [] else (asmSplit rest).map asmTrim)

end Sys2Proof.Machine
end

