-- ==== Sys2Proof/Safety.lean ====
section
/-! DEFINITION. What the statements about the machine are said in: the ranges every step keeps (R22), what
a command leaves unchanged, and a command without its reserved bits. -/

namespace Sys2Proof.Machine

/-- The ranges of a channel's registers (R19, R22) that its types do not already fix. -/
structure ChannelOk (c : Channel) : Prop where
  env_range : FLOOR ≤ c.env ∧ c.env ≤ 0
  sus_range : FLOOR ≤ c.susLevel ∧ c.susLevel ≤ 0
  dec_range : c.decRate ≤ 2 ^ 24
  rel_range : c.relRate ≤ 2 ^ 24
  sweep_range : c.sweepCnt.toNat ≤ c.sweepLen.toNat

/-- The fade position `k` microframes after it stood at `p`, stepped by `step` (R108). -/
def fadePath (step p : Binary32) (k : Nat) : Binary32 := (fun q => f32Add q step)^[k] p

/-- The ranges of the mixer registers (R27, R103), and what the fade commands and FadeSetup keep (R104 to
R108): silence is left by a fade-out alone; without a fade the fade registers are 0; under a fade the step is
that of its direction and the position is the start of the fade stepped once for each microframe gone; the
position lies between +0.0 and 1.0. So every binary32 register is finite (R17). -/
structure MixerOk (m : Mixer) : Prop where
  master_range : m.master.toNat ≤ 0x47800000
  left_range : m.fadeLeft ≤ FADE_LEN
  silent_out : m.silent = true → m.fadeDir = .fadingOut
  idle_left : m.fadeDir = .noFade → m.fadeLeft = 0
  idle_pos : m.fadeDir = .noFade → m.fadePos = 0x00000000#32 ∧ m.fadeStep = 0x00000000#32
  in_pos : m.fadeDir = .fadingIn →
    m.fadeStep = 0x3A088889#32 ∧ m.fadePos = fadePath 0x3A088889#32 0x00000000#32 (FADE_LEN - m.fadeLeft)
  out_pos : m.fadeDir = .fadingOut →
    m.fadeStep = 0xBA088889#32 ∧ m.fadePos = fadePath 0xBA088889#32 0x3F800000#32 (FADE_LEN - m.fadeLeft)
  pos_range : m.fadePos.toNat ≤ 0x3F800000
  all_finite : f32IsFinite m.master = true ∧ f32IsFinite m.fadePos = true ∧ f32IsFinite m.fadeStep = true

/-- The invariant of the machine: every channel and the mixer in range, the bits of `st.lastNote` that R29
does not name 0, and every queued buffer `4 * SPB` bytes long (R30). -/
structure State.Inv (s : State) : Prop where
  channels : ∀ c, ChannelOk (s.ch c)
  mix : MixerOk s.mix
  lastNote : s.st.lastNote &&& 0xFFFF0008#32 = 0#32
  audioBufs : ∀ b ∈ s.audioQ, b.length = 4 * Config.params.spb
  recBufs : ∀ b ∈ s.recQ, b.length = 4 * Config.params.spb

/-- `r` is the binary32 value nearest to the exact real `num / den` units of 2^-149, and of two equally near
ones the one whose last bit is 0 (R17). From the midpoint above the largest finite value on it is an infinity,
as IEEE 754 rounds (log 9). The sign of a zero is not part of it. -/
def IsNearest (r : Binary32) (num : Int) (den : Nat) : Prop :=
  let err := fun x : Binary32 => (f32Units x * den - num).natAbs
  if (2 ^ 25 - 1) * 2 ^ 252 * den ≤ num.natAbs then r = f32Pattern (decide (num < 0)) 0x7F800000
  else f32IsFinite r = true ∧ ∀ y, f32IsFinite y = true →
    err r ≤ err y ∧ (err y = err r → f32Units y ≠ f32Units r → r.getLsbD 0 = false)

/-- The queues, the command stream and the host are as they were. -/
structure SameAround (s s' : State) : Prop where
  audioQ : s'.audioQ = s.audioQ
  recQ : s'.recQ = s.recQ
  stream : s'.stream = s.stream
  pos : s'.pos = s.pos
  host : s'.host = s.host
  rx : s'.rx = s.rx

/-- Of the status registers only `st.rsv` may have changed, and it is set if `bad`, kept otherwise. -/
def RsvOnly (s s' : State) (bad : Bool) : Prop := s'.st = { s.st with rsv := s.st.rsv || bad }

/-- The frame of a command that writes track `t` and leaves it as `x`: every other track, every channel,
the mixer, the queues and the status but for `st.rsv` are unchanged. -/
structure TrackWritten (s s' : State) (t : TrackIdx) (x : Track) (bad : Bool) : Prop where
  written : s'.trk t = x
  others : ∀ u, u ≠ t → s'.trk u = s.trk u
  channels : s'.channels = s.channels
  mix : s'.mix = s.mix
  status : RsvOnly s s' bad
  around : SameAround s s'

/-- The frame of a command that writes mixer registers alone and leaves them as `m`. -/
structure MixWritten (s s' : State) (m : Mixer) (bad : Bool) : Prop where
  written : s'.mix = m
  channels : s'.channels = s.channels
  tracks : s'.tracks = s.tracks
  status : RsvOnly s s' bad
  around : SameAround s s'

/-- Commands executed one after the other, ended by the first that does not answer a next state. -/
def runCommands : List Instr → State → Host.Outcome State Fault Refusal
  | [], s => .next s
  | i :: is, s =>
    match exec i s with
    | .next s' => runCommands is s'
    | .fault r => .fault r
    | .refused r => .refused r

/-- One-word commands with opcode `op` decode to `mk w` and then execute as a write of the track the word
names: the register file's entry becomes `upd w` of what it was, and RSV is raised when the word has a bit
of `mask` (R55, R60). -/
def WritesTrack (op : BitVec 8) (mask : Word) (mk : Word → Instr) (upd : Word → Track → Track) : Prop :=
  ∀ (s : State) (w : Word) (rest : List Word), opcodeOf w = op →
    decode (w :: rest) = .command (mk w) rest ∧
    ∃ s', exec (mk w) s = .next s' ∧
      TrackWritten s s' (trackOf w) (upd w (s.trk (trackOf w))) ((w &&& mask) != 0#32)

/-- The same for the mixer registers. -/
def WritesMix (op : BitVec 8) (mask : Word) (mk : Word → Instr) (upd : Word → Mixer → Mixer) : Prop :=
  ∀ (s : State) (w : Word) (rest : List Word), opcodeOf w = op →
    decode (w :: rest) = .command (mk w) rest ∧
    ∃ s', exec (mk w) s = .next s' ∧ MixWritten s s' (upd w s.mix) ((w &&& mask) != 0#32)

end Sys2Proof.Machine

namespace Sys2Proof

/-- A NOTE's fields with every reserved bit 0. -/
def NoteFields.clearRsv (n : NoteFields) : NoteFields :=
  { n with rsvA := 0, rsvB := 0, rsvC := 0, rsvD := 0, rsvE := 0, rsvF := 0, rsvG := 0, rsvH := 0 }

/-- A command with every reserved bit 0 (R54 b: "executes as if the bit were 0"). -/
def Instr.clearRsv : Instr → Instr
  | .nop _ => .nop 0
  | .trkInit t _ => .trkInit t 0
  | .trkVolume t _ v => .trkVolume t 0 v
  | .trkExpression t _ v => .trkExpression t 0 v
  | .trkPriority t _ v => .trkPriority t 0 v
  | .trkPan t _ v => .trkPan t 0 v
  | .trkTranspose t _ v => .trkTranspose t 0 v
  | .trkPitchbend t _ v => .trkPitchbend t 0 v
  | .trkBendrange t _ v => .trkBendrange t 0 v
  | .trkLfotype t _ k => .trkLfotype t 0 k
  | .trkLfodepth t _ v => .trkLfodepth t 0 v
  | .trkLfospeed t _ v => .trkLfospeed t 0 v
  | .trkLforange t _ v => .trkLforange t 0 v
  | .trkLfodelay t _ v => .trkLfodelay t 0 v
  | .trkAttack t _ v => .trkAttack t 0 v
  | .trkDecay t _ v => .trkDecay t 0 v
  | .trkSustain t _ v => .trkSustain t 0 v
  | .trkRelease t _ v => .trkRelease t 0 v
  | .trkWaitnote t _ b => .trkWaitnote t 0 b
  | .trkMute t _ b => .trkMute t 0 b
  | .trkTick t _ => .trkTick t 0
  | .note n => .note n.clearRsv
  | .chStop _ c _ => .chStop 0 c 0
  | .chTick _ => .chTick 0
  | .process _ toRec toOut => .process 0 toRec toOut
  | .emulate _ => .emulate 0
  | .fadeIn _ => .fadeIn 0
  | .fadeOut _ => .fadeOut 0
  | .fadeReset _ => .fadeReset 0
  | .setMaster _ f => .setMaster 0 f
  | .clrStatus _ => .clrStatus 0

end Sys2Proof
end

