-- ==== Sys2Proof/Certificates/Slice0/Obligations.lean ====
section
/-! DEFINITION. The statements about the machine, each from the numbered rules of spec/. -/

open Sys2Proof Sys2Proof.Machine

/-! ### Encoding -/

/-- R51 to R53: no bit of a command is lost in encoding it and decoding it again. -/
def Obligations.DecodeOfEncodeIsTheCommand : Prop :=
  ∀ (i : Instr) (rest : List Word), decode (encode i ++ rest) = .command i rest

/-- R51 to R53: words that decode to a command are exactly that command's encoding, so every word has one
meaning. -/
def Obligations.DecodedWordsAreTheEncoding : Prop :=
  ∀ (ws rest : List Word) (i : Instr), decode ws = .command i rest → ws = encode i ++ rest

/-- R59: the seven encoding examples. -/
def Obligations.SpecExamplesDecode : Prop :=
  decode [0x02300064#32] = .command (.trkVolume 3 0 100) [] ∧
  decode [0x061000FE#32] = .command (.trkTranspose 1 0 (BitVec.ofInt 8 (-2))) [] ∧
  decode [0x0DF01234#32] = .command (.trkLfodelay 15 0 0x1234) [] ∧
  decode [0x21090000#32] = .command (.chStop 0 9 0) [] ∧
  decode [0x31000003#32] = .command (.process 0 true true) [] ∧
  decode [0x43000000#32, 0x3F000000#32] = .command (.setMaster 0 0x3F000000) [] ∧
  decode [0x2024643C#32, 0x00000030#32, 0x80003C40#32, 0x7F645A50#32, 0x00000000#32, 0x00000000#32] =
    .command (.note
      { t := 2, typ := 1, autoSweep := false, rsvA := 0, vel := 100, rsvB := 0, key := 60, dur := 48
        baseTimer := 0x8000, rsvC := 0, baseKey := 60, rsvD := 0, startPan := 64
        rsvE := 0, instAttack := 127, rsvF := 0, instDecay := 100, rsvG := 0, instSustain := 90
        rsvH := 0, instRelease := 80, sweepPitch := 0, sweepLen := 0, oscCfg := 0 }) []

/-- R50: the length of a command depends on the opcode alone, and the words after it are left alone. -/
def Obligations.LengthDependsOnOpcodeAlone : Prop :=
  ∀ (w : Word) (ws : List Word),
    let n := if opcodeOf w = 0x20#8 then 6 else if opcodeOf w = 0x43#8 then 2 else 1
    (decode (w :: ws) = .incomplete ↔ ws.length + 1 < n) ∧
    (∀ i rest, decode (w :: ws) = .command i rest → rest = ws.drop (n - 1)) ∧
    (∀ op rest, decode (w :: ws) = .unknown op rest → n = 1 ∧ op = opcodeOf w ∧ rest = ws)

/-- R117, R54 (a): which opcodes are unknown, and that such a header is a one-word command that sets
`st.unk` and changes nothing else. -/
def Obligations.UnknownOpcodeOnlySetsUnk : Prop :=
  ∀ (s : State) (w : Word) (rest : List Word), s.stream = w :: rest →
    let op := (opcodeOf w).toNat
    ((∃ o r, decode (w :: rest) = .unknown o r) ↔
      (0x15 ≤ op ∧ op ≤ 0x1F) ∨ (0x22 ≤ op ∧ op ≤ 0x2F) ∨ (0x33 ≤ op ∧ op ≤ 0x3F) ∨
      (0x44 ≤ op ∧ op ≤ 0x4E) ∨ 0x50 ≤ op) ∧
    ((∃ o r, decode (w :: rest) = .unknown o r) →
      step s = .next { s with st := { s.st with unk := true }, stream := rest, pos := s.pos + 1 })

/-- R55: the masked words of a command are all 0 exactly when its reserved fields are, and a command with a
masked bit set raises RSV. -/
def Obligations.ReservedMasksRaiseRsv : Prop :=
  (∀ i : Instr, rsvMaskHit i = !i.reservedZero) ∧
  (∀ (i : Instr) (s : State), rsvMaskHit i = true → ∃ s', exec i s = .next s' ∧ s'.st.rsv = true)

/-- R54, R55, R68, R98, R103, R116: RSV is raised by exactly the commands that are not well formed, and
kept by the others; CLR_STATUS clears it first. -/
def Obligations.RsvRaisedExactlyByIllFormedCommands : Prop :=
  ∀ (i : Instr) (s : State), ∃ s', exec i s = .next s' ∧
    s'.st.rsv = (match i with
      | .clrStatus _ => !i.wf
      | _ => s.st.rsv || !i.wf)

/-- R54 (b): a command with reserved bits set executes as if they were 0, but for `st.rsv`. -/
def Obligations.ReservedBitsReadAsZero : Prop :=
  ∀ (i : Instr) (s : State), ∃ a b, exec i s = .next a ∧ exec i.clearRsv s = .next b ∧
    { a with st := { a.st with rsv := false } } = { b with st := { b.st with rsv := false } }

/-! ### The step and the host -/

/-- R32, R44: the step at a state whose stream begins with a whole command is that command's execution,
with its words consumed and the position advanced by their number. -/
def Obligations.StepExecutesDecodedCommand : Prop :=
  ∀ (s : State) (i : Instr) (rest : List Word), decode s.stream = .command i rest →
    step s = exec i { s with stream := rest, pos := s.pos + (encode i).length }

/-- R32, R44, R120: every command in the stream completes in one step, is consumed whole, and leaves the
position after it, the host's actions and what it has read as they were. -/
def Obligations.EveryCommandIsConsumedInOneStep : Prop :=
  ∀ (s : State) (i : Instr) (rest : List Word), s.stream = encode i ++ rest →
    ∃ s', step s = .next s' ∧ s'.stream = rest ∧ s'.pos = s.pos + (encode i).length ∧
      s'.host = s.host ∧ s'.rx = s.rx

/-- R47: no command writes the command stream or its position. -/
def Obligations.CommandsCannotWriteTheStream : Prop :=
  ∀ (i : Instr) (s : State), ∃ s', exec i s = .next s' ∧ s'.stream = s.stream ∧ s'.pos = s.pos

/-- R56: a NOTE or SET_MASTER whose words stop arriving leaves the block waiting, no state changed. -/
def Obligations.PartialCommandWaits : Prop :=
  ∀ (s : State) (w : Word) (ws : List Word), s.stream = w :: ws →
    ((opcodeOf w = 0x20#8 ∧ ws.length < 5) ∨ (opcodeOf w = 0x43#8 ∧ ws = [])) → s.host = [] →
    step s = .next s

/-- R37, R138: a status read returns the word of the state before any partly received command and changes
nothing in the block. -/
def Obligations.StatusReadChangesNothing : Prop :=
  ∀ (s : State) (off : Nat) (later : List HostAction), decode s.stream = .incomplete →
    off < 0x400 → off % 4 = 0 → s.host = .read (Config.params.blockBase + off) 4 :: later →
    step s = .next { s with host := later, rx := s.rx ++ [statusRead s off] }

/-- R36, global registers: every listed bit field, and the offsets that read 0. -/
def Obligations.StatusWindowGlobalWords : Prop :=
  ∀ s : State,
    statusRead s 0x000 = 0#32 ∧
    (statusRead s 0x004).getLsbD 0 = s.st.unk ∧ (statusRead s 0x004).getLsbD 1 = s.st.rsv ∧
    (statusRead s 0x004).getLsbD 2 = s.st.drop ∧ (statusRead s 0x004).getLsbD 3 = s.mix.silent ∧
    bits 4 2 (statusRead s 0x004) = fadeDirCode s.mix.fadeDir ∧ bits 6 26 (statusRead s 0x004) = 0#26 ∧
    statusRead s 0x008 = s.st.lastNote ∧
    (s.mix.fadeLeft < 2 ^ 32 → (statusRead s 0x00C).toNat = s.mix.fadeLeft) ∧
    statusRead s 0x010 = s.mix.master ∧
    (∀ t : TrackIdx, (statusRead s 0x014).getLsbD t.val = s.mix.mute[t.val]) ∧
    (∀ c : ChanIdx, (statusRead s 0x018).getLsbD c.val = (s.ch c).owner.isSome) ∧
    bits 16 16 (statusRead s 0x014) = 0#16 ∧ bits 16 16 (statusRead s 0x018) = 0#16 ∧
    (∀ k, 7 ≤ k → k < 16 → statusRead s (4 * k) = 0#32)

/-- R36, track registers: every listed bit field; unlisted bits read 0. -/
def Obligations.StatusWindowTrackWords : Prop :=
  ∀ (s : State) (t : TrackIdx),
    let x := s.trk t
    let mask := statusRead s (0x040 + 4 * t.val)
    let lfo := statusRead s (0x080 + 4 * t.val)
    let a := statusRead s (0x0C0 + 4 * t.val)
    let b := statusRead s (0x100 + 4 * t.val)
    let c := statusRead s (0x140 + 4 * t.val)
    let d := statusRead s (0x180 + 4 * t.val)
    let e := statusRead s (0x1C0 + 4 * t.val)
    (∀ c : ChanIdx, mask.getLsbD c.val = decide ((s.ch c).owner = some t)) ∧ bits 16 16 mask = 0#16 ∧
    bits 0 15 lfo = x.lfoPhase ∧ lfo.getLsbD 15 = false ∧ bits 16 16 lfo = x.lfoDelayCnt ∧
    bits 0 7 a = x.volume ∧ a.getLsbD 7 = false ∧ bits 8 7 a = x.expression ∧ a.getLsbD 15 = false ∧
    bits 16 8 a = x.priority ∧ (bits 24 8 a).toInt = x.pan.toInt ∧
    bits 0 8 b = x.transpose ∧ bits 8 8 b = x.pitchBend ∧ bits 16 8 b = x.bendRange ∧
    bits 24 2 b = lfoTypeCode x.lfoType ∧ b.getLsbD 26 = x.waitNote ∧ bits 27 5 b = 0#5 ∧
    bits 0 8 c = x.lfoDepth ∧ bits 8 8 c = x.lfoSpeed ∧ bits 16 8 c = x.lfoRange ∧ bits 24 8 c = 0#8 ∧
    bits 0 8 d = x.attack ∧ bits 8 8 d = x.decay ∧ bits 16 8 d = x.sustain ∧ bits 24 8 d = x.release ∧
    bits 0 16 e = x.lfoDelay ∧ bits 16 16 e = 0#16

/-- R36, channel registers: every listed bit field; unlisted bits read 0. -/
def Obligations.StatusWindowChannelWords : Prop :=
  ∀ (s : State) (c : ChanIdx),
    let x := s.ch c
    let ctrl := statusRead s (0x200 + 32 * c.val)
    let out := statusRead s (0x208 + 32 * c.val)
    let sweep := statusRead s (0x210 + 32 * c.val)
    let swl := statusRead s (0x214 + 32 * c.val)
    let timer := statusRead s (0x218 + 32 * c.val)
    ctrl.getLsbD 0 = x.owner.isSome ∧ bits 1 3 ctrl = 0#3 ∧
    (∀ t, x.owner = some t → (bits 4 4 ctrl).toFin = t) ∧ (x.owner = none → bits 4 4 ctrl = 0#4) ∧
    bits 8 2 ctrl = envStateCode x.state ∧ bits 10 2 ctrl = instrTypeCode x.typ ∧ bits 12 7 ctrl = x.key ∧
    bits 19 7 ctrl = x.noteVel ∧ ctrl.getLsbD 26 = x.autoSweep ∧ bits 27 5 ctrl = 0#5 ∧
    (FLOOR ≤ x.env ∧ x.env ≤ 0 → (statusRead s (0x204 + 32 * c.val)).toInt = x.env) ∧
    bits 0 7 out = x.volume ∧ out.getLsbD 7 = false ∧ (bits 8 8 out).toInt = x.pan.toInt ∧
    bits 16 16 out = x.timer ∧
    statusRead s (0x20C + 32 * c.val) = x.dur ∧
    bits 0 16 sweep = x.sweepPitch ∧ bits 16 16 sweep = x.sweepCnt ∧
    bits 0 16 swl = x.sweepLen ∧ bits 16 7 swl = x.baseKey ∧ swl.getLsbD 23 = false ∧
    (bits 24 8 swl).toInt = x.startPan.toInt ∧
    bits 0 16 timer = x.baseTimer ∧ bits 16 16 timer = 0#16 ∧
    statusRead s (0x21C + 32 * c.val) = x.oscCfg

/-- R38: a write to offset 0 appends the word to the stream; a write to any other offset of the window is
ignored and changes no state. -/
def Obligations.CommandPortWrite : Prop :=
  ∀ (s : State) (off : Nat) (data : Word) (later : List HostAction), decode s.stream = .incomplete →
    off < 0x400 → off % 4 = 0 → s.host = .write (Config.params.blockBase + off) 4 data :: later →
    (off = 0 → step s = .next { s with host := later, stream := s.stream ++ [data] }) ∧
    (off ≠ 0 → step s = .next { s with host := later })

/-- R40: an access of another width, misaligned, or outside the window is refused: there is no step; every
other access has one. -/
def Obligations.BadAccessIsRefused : Prop :=
  ∀ (s : State) (addr width : Nat) (data : Word) (later : List HostAction), decode s.stream = .incomplete →
    (s.host = .read addr width :: later ∨ s.host = .write addr width data :: later) →
    let good := width = 4 ∧ ∃ off, off < 0x400 ∧ off % 4 = 0 ∧ addr = Config.params.blockBase + off
    (good → ∃ s', step s = .next s') ∧ (¬ good → step s = .refused .accessRefused)

/-- R120, R121: nothing else stops the machine: every step answers a next state, or refuses an access of
the host that is not a 32-bit one at a 4-byte-aligned offset below 0x400, while no whole command stands in the
stream. -/
def Obligations.OnlyBadAccessesStop : Prop :=
  ∀ s : State, (∃ s', step s = .next s') ∨
    (step s = .refused .accessRefused ∧ decode s.stream = .incomplete ∧
      ∃ addr width later, (s.host = .read addr width :: later ∨ ∃ data, s.host = .write addr width data :: later) ∧
        ¬ (width = 4 ∧ ∃ off, off < 0x400 ∧ off % 4 = 0 ∧ addr = Config.params.blockBase + off))

/-- R30, R129, R131, R132: a sink takes the head buffer whole; reset discards a partly received command and
puts every register to its reset value. The model's choices in it: an empty queue stays as it is (log 17), the
position in the stream is 0 after reset (DESIGN CHOICE, log 8), and reset keeps `host` and `rx` (log 14). -/
def Obligations.BufferRemovalAndReset : Prop :=
  ∀ (s : State) (later : List HostAction), decode s.stream = .incomplete →
    (∀ b q, s.host = .takeAudio :: later → s.audioQ = b :: q → step s = .next { s with host := later, audioQ := q }) ∧
    (∀ b q, s.host = .takeRec :: later → s.recQ = b :: q → step s = .next { s with host := later, recQ := q }) ∧
    (s.host = .takeAudio :: later → s.audioQ = [] → step s = .next { s with host := later }) ∧
    (s.host = .takeRec :: later → s.recQ = [] → step s = .next { s with host := later }) ∧
    (s.host = .reset :: later → step s = .next { State.reset with host := later, rx := s.rx })

/-- R23, R24, R26, R28, R29, R30, R131: every register after reset, and the empty queues and stream. The
fields `host`, `rx` and `pos`, whose values are the model's (log 5, 6, 8), are not stated. -/
def Obligations.ResetValues : Prop :=
  (∀ c, State.reset.ch c =
    { owner := none, typ := .pcm, state := .attack, key := 0, baseKey := 0, noteVel := 0, dur := 0
      env := -92544, atkRate := 0, decRate := 0, susLevel := 0, relRate := 0, sweepPitch := 0, sweepLen := 0
      sweepCnt := 0, autoSweep := false, startPan := 0, baseTimer := 0, volume := 0, pan := 0, timer := 0
      oscCfg := 0, oscState := Config.params.oscInit .pcm 0 }) ∧
  (∀ t, State.reset.trk t =
    { volume := 127, expression := 127, priority := 64, pan := 0, transpose := 0, pitchBend := 0, bendRange := 2
      lfoType := .pitch, lfoDepth := 0, lfoSpeed := 16, lfoRange := 1, lfoDelay := 0, lfoPhase := 0
      lfoDelayCnt := 0, attack := 255, decay := 255, sustain := 255, release := 255, waitNote := false }) ∧
  (∀ t : TrackIdx, State.reset.mix.mute[t.val] = false) ∧
  State.reset.mix.master = 0x3F800000#32 ∧ State.reset.mix.fadeDir = .noFade ∧ State.reset.mix.fadePos = 0#32 ∧
  State.reset.mix.fadeStep = 0#32 ∧ State.reset.mix.fadeLeft = 0 ∧ State.reset.mix.silent = false ∧
  State.reset.st = { unk := false, rsv := false, drop := false, lastNote := 0 } ∧
  State.reset.audioQ = [] ∧ State.reset.recQ = [] ∧ State.reset.stream = []

/-! ### Track commands -/

/-- R61 to R64: the volume, expression, priority and pan registers. -/
def Obligations.TrackLevelWrites : Prop :=
  WritesTrack 0x02#8 0x000FFF80#32 (fun w => .trkVolume (trackOf w) (bits 7 13 w) (bits 0 7 w))
    (fun w x => { x with volume := bits 0 7 w }) ∧
  WritesTrack 0x03#8 0x000FFF80#32 (fun w => .trkExpression (trackOf w) (bits 7 13 w) (bits 0 7 w))
    (fun w x => { x with expression := bits 0 7 w }) ∧
  WritesTrack 0x04#8 0x000FFF00#32 (fun w => .trkPriority (trackOf w) (bits 8 12 w) (bits 0 8 w))
    (fun w x => { x with priority := bits 0 8 w }) ∧
  WritesTrack 0x05#8 0x000FFF80#32 (fun w => .trkPan (trackOf w) (bits 7 13 w) (bits 0 7 w))
    (fun w x => { x with pan := centred (bits 0 7 w) }) ∧
  (∀ raw : BitVec 7, (centred raw).toInt = (raw.toNat : Int) - 64)

/-- R65 to R67: the transpose, pitch-bend and bend-range registers. -/
def Obligations.TrackPitchWrites : Prop :=
  WritesTrack 0x06#8 0x000FFF00#32 (fun w => .trkTranspose (trackOf w) (bits 8 12 w) (bits 0 8 w))
    (fun w x => { x with transpose := bits 0 8 w }) ∧
  WritesTrack 0x07#8 0x000FFF00#32 (fun w => .trkPitchbend (trackOf w) (bits 8 12 w) (bits 0 8 w))
    (fun w x => { x with pitchBend := bits 0 8 w }) ∧
  WritesTrack 0x08#8 0x000FFF00#32 (fun w => .trkBendrange (trackOf w) (bits 8 12 w) (bits 0 8 w))
    (fun w x => { x with bendRange := bits 0 8 w })

/-- R69 to R72: the LFO depth, speed, range and delay registers; the delay counter and the phase are kept. -/
def Obligations.TrackLfoWrites : Prop :=
  WritesTrack 0x0A#8 0x000FFF00#32 (fun w => .trkLfodepth (trackOf w) (bits 8 12 w) (bits 0 8 w))
    (fun w x => { x with lfoDepth := bits 0 8 w }) ∧
  WritesTrack 0x0B#8 0x000FFF00#32 (fun w => .trkLfospeed (trackOf w) (bits 8 12 w) (bits 0 8 w))
    (fun w x => { x with lfoSpeed := bits 0 8 w }) ∧
  WritesTrack 0x0C#8 0x000FFF00#32 (fun w => .trkLforange (trackOf w) (bits 8 12 w) (bits 0 8 w))
    (fun w x => { x with lfoRange := bits 0 8 w }) ∧
  WritesTrack 0x0D#8 0x000F0000#32 (fun w => .trkLfodelay (trackOf w) (bits 16 4 w) (bits 0 16 w))
    (fun w x => { x with lfoDelay := bits 0 16 w })

/-- R68: the LFO type register; the value 3 leaves it unchanged and raises RSV. -/
def Obligations.LfoTypeWrite : Prop :=
  ∀ (s : State) (w : Word) (rest : List Word), opcodeOf w = 0x09#8 →
    let i := Instr.trkLfotype (trackOf w) (bits 2 18 w) (bits 0 2 w)
    let x := s.trk (trackOf w)
    decode (w :: rest) = .command i rest ∧
    ∃ s', exec i s = .next s' ∧
      (bits 0 2 w = 3#2 → TrackWritten s s' (trackOf w) x true) ∧
      (∀ k, lfoTypeCode k = bits 0 2 w →
        TrackWritten s s' (trackOf w) { x with lfoType := k } ((w &&& 0x000FFFFC#32) != 0#32))

/-- R73 to R77: the attack, decay, sustain and release overrides and the wait-note flag. -/
def Obligations.TrackEnvelopeWrites : Prop :=
  WritesTrack 0x0E#8 0x000FFF00#32 (fun w => .trkAttack (trackOf w) (bits 8 12 w) (bits 0 8 w))
    (fun w x => { x with attack := bits 0 8 w }) ∧
  WritesTrack 0x0F#8 0x000FFF00#32 (fun w => .trkDecay (trackOf w) (bits 8 12 w) (bits 0 8 w))
    (fun w x => { x with decay := bits 0 8 w }) ∧
  WritesTrack 0x10#8 0x000FFF00#32 (fun w => .trkSustain (trackOf w) (bits 8 12 w) (bits 0 8 w))
    (fun w x => { x with sustain := bits 0 8 w }) ∧
  WritesTrack 0x11#8 0x000FFF00#32 (fun w => .trkRelease (trackOf w) (bits 8 12 w) (bits 0 8 w))
    (fun w x => { x with release := bits 0 8 w }) ∧
  WritesTrack 0x12#8 0x000FFFFE#32 (fun w => .trkWaitnote (trackOf w) (bits 1 19 w) (w.getLsbD 0))
    (fun w x => { x with waitNote := w.getLsbD 0 })

/-- R78: TRK_INIT puts every register of the track to its default, frees its channels, and changes nothing
else. -/
def Obligations.TrackInitResetsAndStops : Prop :=
  ∀ (s : State) (w : Word) (rest : List Word), opcodeOf w = 0x01#8 →
    let t := trackOf w
    decode (w :: rest) = .command (.trkInit t (bits 0 20 w)) rest ∧
    ∃ s', exec (.trkInit t (bits 0 20 w)) s = .next s' ∧
      s'.trk t =
        { volume := 127, expression := 127, priority := 64, pan := 0, transpose := 0, pitchBend := 0
          bendRange := 2, lfoType := .pitch, lfoDepth := 0, lfoSpeed := 16, lfoRange := 1, lfoDelay := 0
          lfoPhase := 0, lfoDelayCnt := 0, attack := 255, decay := 255, sustain := 255, release := 255
          waitNote := false } ∧
      (∀ u, u ≠ t → s'.trk u = s.trk u) ∧
      (∀ c, (s.ch c).owner = some t → s'.ch c = { s.ch c with owner := none, volume := 0 }) ∧
      (∀ c, (s.ch c).owner ≠ some t → s'.ch c = s.ch c) ∧
      s'.mix = s.mix ∧ RsvOnly s s' ((w &&& 0x000FFFFF#32) != 0#32) ∧ SameAround s s'

/-- R79: TRK_TICK of a track that owns a channel, and of one that owns none. -/
def Obligations.TrackTickCountsAndMovesLfo : Prop :=
  ∀ (s : State) (w : Word) (rest : List Word), opcodeOf w = 0x14#8 →
    let t := trackOf w
    let x := s.trk t
    decode (w :: rest) = .command (.trkTick t (bits 0 20 w)) rest ∧
    ∃ s', exec (.trkTick t (bits 0 20 w)) s = .next s' ∧
      (∀ c, (s.ch c).owner ≠ some t → s'.ch c = s.ch c) ∧
      (∀ c, (s.ch c).owner = some t →
        ∃ dur cnt, s'.ch c = { s.ch c with dur := dur, sweepCnt := cnt } ∧
          dur.toInt = (if 0 < (s.ch c).dur.toInt then (s.ch c).dur.toInt - 1 else (s.ch c).dur.toInt) ∧
          cnt.toNat = (if (s.ch c).autoSweep = false ∧ (s.ch c).sweepCnt.toNat < (s.ch c).sweepLen.toNat then
            (s.ch c).sweepCnt.toNat + 1 else (s.ch c).sweepCnt.toNat)) ∧
      (∀ u, u ≠ t → s'.trk u = s.trk u) ∧
      (∃ phase cnt, s'.trk t = { x with lfoPhase := phase, lfoDelayCnt := cnt } ∧
        (if ∃ c, (s.ch c).owner = some t then
          if 0 < x.lfoDelayCnt.toNat then phase = x.lfoPhase ∧ cnt.toNat = x.lfoDelayCnt.toNat - 1
          else phase.toNat = (x.lfoPhase.toNat + x.lfoSpeed.toNat * 64) % 0x8000 ∧ cnt = x.lfoDelayCnt
        else phase = 0#15 ∧ cnt = x.lfoDelay)) ∧
      s'.mix = s.mix ∧ RsvOnly s s' ((w &&& 0x000FFFFF#32) != 0#32) ∧ SameAround s s'

/-- R80: the LFO value is 0 at depth 0 or during the delay, and otherwise the floor of the product over
2^LFO_SHIFT (the 26-bit sign extension changes nothing); it lies in [-32513, 32512]. -/
def Obligations.LfoValueFormulaAndRange : Prop :=
  ∀ x : Track,
    let product : Int :=
      (Config.params.sin (x.lfoPhase.extractLsb' 8 7)).toInt * x.lfoDepth.toNat * x.lfoRange.toNat
    lfoValue Config.params x =
      (if x.lfoDepth = 0 ∨ 0 < x.lfoDelayCnt.toNat then 0 else product.fdiv 256) ∧
    -32513 ≤ lfoValue Config.params x ∧ lfoValue Config.params x ≤ 32512

/-- R81 to R84: the LFO value goes whole to the quantity the type names and 0 to the other two, and the pan
is clamped. -/
def Obligations.LfoGoesToOneTarget : Prop :=
  ∀ x : Track,
    let P := Config.params
    trackVolume P x = P.sustainTable x.volume + P.sustainTable x.expression +
      (if x.lfoType = .volume then lfoValue P x else 0) ∧
    trackPitch P x = (x.pitchBend.toInt * x.bendRange.toNat).fdiv 2 +
      (if x.lfoType = .pitch then lfoValue P x else 0) ∧
    trackPan P x = max (-64) (min 63 (x.pan.toInt + (if x.lfoType = .pan then lfoValue P x else 0)))

/-! ### Channels -/

/-- R87: one step of the envelope, state by state; nothing but the level and the state changes. -/
def Obligations.EnvelopeStepByState : Prop :=
  ∀ c : Channel,
    (c.state = .attack → (((c.atkRate.toNat : Int) * c.env).tdiv 255 = 0 →
        stepEnvelope c = { c with env := 0, state := .decay }) ∧
      (((c.atkRate.toNat : Int) * c.env).tdiv 255 ≠ 0 →
        stepEnvelope c = { c with env := ((c.atkRate.toNat : Int) * c.env).tdiv 255 })) ∧
    (c.state = .decay → (c.env - c.decRate ≤ c.susLevel →
        stepEnvelope c = { c with env := c.susLevel, state := .sustain }) ∧
      (c.susLevel < c.env - c.decRate → stepEnvelope c = { c with env := c.env - c.decRate })) ∧
    (c.state = .sustain → stepEnvelope c = c) ∧
    (c.state = .release → stepEnvelope c = { c with env := max (c.env - c.relRate) (-92544) })

/-- R22, R88 (a): the envelope step keeps the ranges of a channel's registers. -/
def Obligations.EnvelopeStepKeepsRanges : Prop :=
  ∀ c : Channel, ChannelOk c → ChannelOk (stepEnvelope c)

/-- R88 (b): in Attack with a rate of at most 254 the level strictly shrinks and Decay is reached after
finitely many steps; at rate 255 nothing changes; at rate 0 the first step enters Decay at 0. -/
def Obligations.AttackEnds : Prop :=
  ∀ c : Channel, c.state = .attack → FLOOR ≤ c.env → c.env ≤ 0 →
    (c.atkRate.toNat ≤ 254 → c.env < 0 → (stepEnvelope c).env.natAbs < c.env.natAbs) ∧
    (c.atkRate.toNat ≤ 254 → ∃ n, (stepEnvelope^[n] c).state = .decay ∧ (stepEnvelope^[n] c).env = 0) ∧
    (c.atkRate.toNat = 255 → c.env < 0 → stepEnvelope c = c) ∧
    (c.atkRate.toNat = 0 → stepEnvelope c = { c with env := 0, state := .decay })

/-- R88 (c): in Decay with a positive rate the level reaches the sustain level after at most
max(1, ceil((env - susLevel) / decRate)) steps; at rate 0 above it, nothing changes. -/
def Obligations.DecayReachesSustain : Prop :=
  ∀ c : Channel, c.state = .decay →
    (0 < c.decRate → ∃ n : Nat, 1 ≤ n ∧
      (n : Int) ≤ max 1 ((c.env - c.susLevel + c.decRate - 1) / c.decRate) ∧
      stepEnvelope^[n] c = { c with env := c.susLevel, state := .sustain }) ∧
    (c.decRate = 0 → c.susLevel < c.env → stepEnvelope c = c)

/-- R88 (d), (e), R87: in Release the level never rises and stays at or above the floor, strictly falling
while the rate is positive and the floor not reached; no step raises a level above 0 or moves a state back. -/
def Obligations.ReleaseFallsToTheFloor : Prop :=
  ∀ c : Channel, FLOOR ≤ c.env → c.env ≤ 0 → FLOOR ≤ c.susLevel → c.susLevel ≤ 0 →
    (c.state = .release → (stepEnvelope c).env ≤ c.env ∧ FLOOR ≤ (stepEnvelope c).env) ∧
    (c.state = .release → 0 < c.relRate → FLOOR < c.env → (stepEnvelope c).env < c.env) ∧
    (c.state = .release → 0 < c.relRate → ∃ n, (stepEnvelope^[n] c).env = FLOOR) ∧
    (stepEnvelope c).env ≤ 0 ∧
    (envStateCode c.state).toNat ≤ (envStateCode (stepEnvelope c).state).toNat

/-- R90, R91: the sweep term starts at the sweep pitch, is 0 from the sweep length on, is the truncated
linear share between, and with the auto-sweep flag the counter is advanced and capped at the length. -/
def Obligations.SweepFallsLinearlyToZero : Prop :=
  ∀ c : Channel, c.sweepCnt.toNat ≤ c.sweepLen.toNat →
    (sweepValue c).natAbs ≤ c.sweepPitch.toInt.natAbs ∧
    (c.sweepCnt = c.sweepLen → sweepValue c = 0) ∧
    (c.sweepCnt = 0 → c.sweepLen ≠ 0 → sweepValue c = c.sweepPitch.toInt) ∧
    (c.sweepLen ≠ 0 →
      (sweepValue c * c.sweepLen.toNat -
        c.sweepPitch.toInt * ((c.sweepLen.toNat : Int) - c.sweepCnt.toNat)).natAbs < c.sweepLen.toNat) ∧
    (∃ cnt, sweepAdvance c = { c with sweepCnt := cnt } ∧
      cnt.toNat = if c.autoSweep = true ∧ c.sweepPitch ≠ 0 then min c.sweepLen.toNat (c.sweepCnt.toNat + 1)
        else c.sweepCnt.toNat)

/-- R92, R93: CH_STOP frees an owned channel and zeroes its volume, leaves a free one alone, and changes
nothing else. -/
def Obligations.ChStopFreesTheChannel : Prop :=
  ∀ (s : State) (w : Word) (rest : List Word), opcodeOf w = 0x21#8 →
    let c := channelOf w
    let i := Instr.chStop (bits 20 4 w) c (bits 0 16 w)
    decode (w :: rest) = .command i rest ∧
    ∃ s', exec i s = .next s' ∧
      ((s.ch c).owner ≠ none → s'.ch c = { s.ch c with owner := none, volume := 0 }) ∧
      ((s.ch c).owner = none → s'.ch c = s.ch c) ∧
      (∀ d, d ≠ c → s'.ch d = s.ch d) ∧ s'.tracks = s.tracks ∧ s'.mix = s.mix ∧
      RsvOnly s s' ((w &&& 0x00F0FFFF#32) != 0#32) ∧ SameAround s s'

/-- R100, with R89 and R90: what CH_TICK leaves in every channel. -/
def Obligations.ChTickRecomputesEachChannel : Prop :=
  ∀ (s : State) (w : Word) (rest : List Word), opcodeOf w = 0x30#8 →
    let P := Config.params
    decode (w :: rest) = .command (.chTick (bits 0 24 w)) rest ∧
    ∃ s', exec (.chTick (bits 0 24 w)) s = .next s' ∧
      (∀ c, (s.ch c).owner = none → s'.ch c = s.ch c) ∧
      (∀ c t, (s.ch c).owner = some t →
        let x := s.trk t
        let e := stepEnvelope (s.ch c)
        let st := if e.dur = 0 ∧ x.waitNote = false then EnvState.release else e.state
        let vol := P.sustainTable e.noteVel + e.env + trackVolume P x
        let running := e.sweepPitch ≠ 0 ∧ e.sweepCnt.toNat < e.sweepLen.toNat
        let sweep := if running then
          (e.sweepPitch.toInt * ((e.sweepLen.toNat : Int) - e.sweepCnt.toNat)).tdiv e.sweepLen.toNat else 0
        let pitch := ((e.key.toNat : Int) - e.baseKey.toNat) * 64 + sweep + trackPitch P x
        let cnt := if running ∧ e.autoSweep = true then e.sweepCnt + 1 else e.sweepCnt
        if st = .release ∧ vol ≤ -92544 then
          s'.ch c = { e with state := st, sweepCnt := cnt, owner := none, volume := 0 }
        else ∃ pan, pan.toInt = max (-64) (min 63 (e.startPan.toInt + trackPan P x)) ∧
          s'.ch c = { e with state := st, sweepCnt := cnt, volume := P.volumeFn vol
                             timer := P.timerFn e.baseTimer pitch, pan := pan }) ∧
      s'.tracks = s.tracks ∧ s'.mix = s.mix ∧
      RsvOnly s s' ((w &&& 0x00FFFFFF#32) != 0#32) ∧ SameAround s s'

/-- R98: NOTE with an invalid type, NOTE the arbiter gives no channel, and NOTE that starts. -/
def Obligations.NoteStartsOrDrops : Prop :=
  ∀ (s : State) (w0 w1 w2 w3 w4 w5 : Word) (rest : List Word), opcodeOf w0 = 0x20#8 →
    let P := Config.params
    let n := decodeNote w0 w1 w2 w3 w4 w5
    let t := trackOf w0
    let x := s.trk t
    let bad := (w0 &&& 0x00018080#32) != 0#32 || (w2 &&& 0x00008080#32) != 0#32 ||
      (w3 &&& 0x80808080#32) != 0#32
    let pick := fun (reg : BitVec 8) (inst : BitVec 7) => if reg.toNat < 128 then reg.setWidth 7 else inst
    decode (w0 :: w1 :: w2 :: w3 :: w4 :: w5 :: rest) = .command (.note n) rest ∧
    ∃ s', exec (.note n) s = .next s' ∧ s'.tracks = s.tracks ∧ s'.mix = s.mix ∧ SameAround s s' ∧
      (bits 18 2 w0 = 3#2 → s'.channels = s.channels ∧
        s'.st = { s.st with rsv := true, drop := true, lastNote := BitVec.ofNat 32 (t.val * 4096 + 1) }) ∧
      (∀ ty, instrTypeCode ty = bits 18 2 w0 → arbitrate P s ty t = none → s'.channels = s.channels ∧
        s'.st = { s.st with rsv := s.st.rsv || bad, drop := true
                            lastNote := BitVec.ofNat 32 (t.val * 4096 + 1) }) ∧
      (∀ ty c, instrTypeCode ty = bits 18 2 w0 → arbitrate P s ty t = some c →
        (∀ d, d ≠ c → s'.ch d = s.ch d) ∧
        (∃ key pan, (key.toNat : Int) = max 0 (min 127 (((bits 0 7 w0).toNat : Int) + x.transpose.toInt)) ∧
          pan.toInt = ((bits 0 7 w2).toNat : Int) - 64 ∧
          s'.ch c =
            { owner := some t, typ := ty, state := .attack, key := key, baseKey := bits 8 7 w2
              noteVel := bits 8 7 w0, dur := w1, env := -92544
              atkRate := P.attackTable (pick x.attack (bits 24 7 w3))
              decRate := P.decayTable (pick x.decay (bits 16 7 w3))
              susLevel := P.sustainTable (pick x.sustain (bits 8 7 w3))
              relRate := P.decayTable (pick x.release (bits 0 7 w3))
              sweepPitch := bits 16 16 w4, sweepLen := bits 0 16 w4, sweepCnt := 0
              autoSweep := w0.getLsbD 17, startPan := pan, baseTimer := bits 16 16 w2
              volume := 0, pan := pan, timer := bits 16 16 w2, oscCfg := w5, oscState := P.oscInit ty w5 }) ∧
        s'.st =
          { s.st with
            rsv := s.st.rsv || bad
            lastNote := match (s.ch c).owner with
              | none => BitVec.ofNat 32 (t.val * 4096 + c.val * 16 + 3)
              | some u => BitVec.ofNat 32 (t.val * 4096 + u.val * 256 + c.val * 16 + 7) })

/-! ### The arbiter -/

/-- R95, R96: the channel the arbiter returns is the one of the type's mask with the least score, the least
volume among equal scores, and the least index among equal volumes, and its score is at most the
requester's priority. -/
def Obligations.ArbiterPicksTheLeast : Prop :=
  ∀ (s : State) (ty : InstrType) (t : TrackIdx) (b : ChanIdx),
    let rank : ChanIdx → Int := fun c =>
      match (s.ch c).owner with
      | none => -2
      | some u => if (s.ch c).state = .release then -1 else (s.trk u).priority.toNat
    let mask := fun c : ChanIdx => (Config.params.chMask ty).getLsbD c.val
    arbitrate Config.params s ty t = some b ↔
      mask b = true ∧ rank b ≤ (s.trk t).priority.toNat ∧
      ∀ c, mask c = true → rank b < rank c ∨
        (rank b = rank c ∧ ((s.ch b).volume.toNat < (s.ch c).volume.toNat ∨
          ((s.ch b).volume.toNat = (s.ch c).volume.toNat ∧ b ≤ c)))

/-- R97: the arbiter's four properties, at the default masks of R5 and R94. The masks are parameters of the
spec; that they stand at their defaults is the model's choice (DESIGN CHOICE, log 2). -/
def Obligations.ArbiterProperties : Prop :=
  ∀ (s : State) (ty : InstrType) (t : TrackIdx),
    let inMask := fun c : ChanIdx => match ty with
      | .pcm => True
      | .psg => 8 ≤ c.val ∧ c.val ≤ 13
      | .noise => 14 ≤ c.val
    (∀ c, arbitrate Config.params s ty t = some c → inMask c) ∧
    (∀ c u, arbitrate Config.params s ty t = some c → (s.ch c).owner = some u → (s.ch c).state ≠ .release →
      (s.trk u).priority.toNat ≤ (s.trk t).priority.toNat) ∧
    ((∃ c, inMask c ∧ (s.ch c).owner = none) →
      ∃ c, arbitrate Config.params s ty t = some c ∧ (s.ch c).owner = none) ∧
    ((∃ c, inMask c ∧ (s.ch c).owner ≠ none ∧ (s.ch c).state = .release) →
      (∀ c, inMask c → (s.ch c).owner ≠ none) →
      ∃ c, arbitrate Config.params s ty t = some c ∧ (s.ch c).state = .release) ∧
    (arbitrate Config.params s ty t = none → ∀ c, inMask c → ∃ u, (s.ch c).owner = some u ∧
      (s.ch c).state ≠ .release ∧ (s.trk t).priority.toNat < (s.trk u).priority.toNat)

/-! ### The mixer -/

/-- R102: TRK_MUTE writes one mute flag. -/
def Obligations.MuteWrite : Prop :=
  WritesMix 0x13#8 0x000FFFFE#32 (fun w => .trkMute (trackOf w) (bits 1 19 w) (w.getLsbD 0))
    (fun w m => { m with mute := m.mute.set (trackOf w).val (w.getLsbD 0) })

/-- R103: SET_MASTER refuses a value whose sign bit is 1, whose exponent is all ones or that is above
65536.0, and raises RSV; any other value becomes the master volume. -/
def Obligations.SetMasterAcceptsOrRefuses : Prop :=
  ∀ (s : State) (w v : Word) (rest : List Word), opcodeOf w = 0x43#8 →
    let i := Instr.setMaster (bits 0 24 w) v
    let refused := v.getLsbD 31 = true ∨ bits 23 8 v = 0xFF#8 ∨ 0x47800000 < v.toNat
    decode (w :: v :: rest) = .command i rest ∧
    ∃ s', exec i s = .next s' ∧
      (refused → MixWritten s s' s.mix true) ∧
      (¬ refused → MixWritten s s' { s.mix with master := v } ((w &&& 0x00FFFFFF#32) != 0#32))

/-- R104 to R106: the three fade commands; `0x3A088889` and `0xBA088889` are the binary32 values nearest to
1/1920 and -1/1920. -/
def Obligations.FadeCommandsArmTheFade : Prop :=
  WritesMix 0x40#8 0x00FFFFFF#32 (fun w => .fadeIn (bits 0 24 w))
    (fun _ m => { m with fadeDir := .fadingIn, fadePos := 0x00000000#32, fadeLeft := 1920
                         fadeStep := 0x3A088889#32, silent := false }) ∧
  WritesMix 0x41#8 0x00FFFFFF#32 (fun w => .fadeOut (bits 0 24 w))
    (fun _ m => { m with fadeDir := .fadingOut, fadePos := 0x3F800000#32, fadeLeft := 1920
                         fadeStep := 0xBA088889#32 }) ∧
  WritesMix 0x42#8 0x00FFFFFF#32 (fun w => .fadeReset (bits 0 24 w))
    (fun _ m => { m with fadeDir := .noFade, fadePos := 0x00000000#32, fadeLeft := 0
                         fadeStep := 0x00000000#32, silent := false }) ∧
  f32Recip 1920 = 0x3A088889#32 ∧ f32Neg (f32Recip 1920) = 0xBA088889#32

/-- R107, R108: the buffer's starting level, its step per frame, and the mixer after it, for either value of
the parameter that times the silence. -/
def Obligations.FadeSetupByCase : Prop :=
  ∀ (P : Params) (m : Mixer),
    let level := fun p : Binary32 => f32Mul m.master (if f32Lt p 0#32 then 0#32 else P.pow p)
    let slope := fun a b : Binary32 => f32Mul (f32Sub b a) (f32Recip P.spb)
    let pos := f32Add m.fadePos m.fadeStep
    let early := P.fadeSilenceOnCompletingCall
    (m.silent = true → fadeSetup P m = ((0#32, 0#32), m)) ∧
    (m.silent = false → m.fadeLeft = 0 →
      (early = false ∧ m.fadeDir = .fadingOut → fadeSetup P m = ((0#32, 0#32), { m with silent := true })) ∧
      (¬ (early = false ∧ m.fadeDir = .fadingOut) →
        fadeSetup P m = ((m.master, slope m.master m.master), m))) ∧
    (m.silent = false → 0 < m.fadeLeft →
      (early = true ∧ m.fadeLeft = 1 ∧ m.fadeDir = .fadingOut →
        fadeSetup P m = ((0#32, 0#32), { m with fadePos := pos, fadeLeft := 0, silent := true })) ∧
      (¬ (early = true ∧ m.fadeLeft = 1 ∧ m.fadeDir = .fadingOut) →
        fadeSetup P m = ((level m.fadePos, slope (level m.fadePos) (level pos)),
          { m with fadePos := pos, fadeLeft := m.fadeLeft - 1 })))

/-- R113, R41, R111: PROCESS renders SPB frames from the fade's ramp and the channels, advances every owned
channel's oscillator once per frame, muted or not, and appends the whole buffer to the queues its flags
name; the buffer and every other change are the same for all flags. -/
def Obligations.ProcessRendersOneBuffer : Prop :=
  ∀ (s : State) (w : Word) (rest : List Word), opcodeOf w = 0x31#8 →
    let P := Config.params
    let i := Instr.process (bits 2 22 w) (w.getLsbD 1) (w.getLsbD 0)
    let ramp := (fadeSetup P s.mix).1
    let levelAt := fun k : Nat => (fun l => f32Add l ramp.2)^[k] ramp.1
    let part := fun (k : Nat) (c : ChanIdx) =>
      let x := (oscAdvanceN P k s.channels)[c.val]
      match x.owner with
      | none => ((0, 0) : Int × Int)
      | some t => if s.mix.mute[t.val] then (0, 0) else contrib x (P.osc x.typ x.oscCfg x.timer x.oscState).1.toInt
    let frameAt := fun k : Nat =>
      let l := out16 ((List.finRange 16).map fun c => (part k c).1).sum (levelAt k)
      let r := out16 ((List.finRange 16).map fun c => (part k c).2).sum (levelAt k)
      ([l.extractLsb' 0 8, l.extractLsb' 8 8, r.extractLsb' 0 8, r.extractLsb' 8 8] : List Byte)
    let buf := (List.range P.spb).flatMap frameAt
    decode (w :: rest) = .command i rest ∧
    ∃ s', exec i s = .next s' ∧ buf.length = 4 * P.spb ∧
      s'.audioQ = (if w.getLsbD 0 then s.audioQ ++ [buf] else s.audioQ) ∧
      s'.recQ = (if w.getLsbD 1 then s.recQ ++ [buf] else s.recQ) ∧
      s'.channels = oscAdvanceN P P.spb s.channels ∧
      s'.mix = (fadeSetup P s.mix).2 ∧ s'.tracks = s.tracks ∧
      RsvOnly s s' ((w &&& 0x00FFFFFC#32) != 0#32) ∧
      s'.stream = s.stream ∧ s'.pos = s.pos ∧ s'.host = s.host ∧ s'.rx = s.rx

/-- R114: EMULATE advances the oscillator of every owned channel SPB times, as PROCESS from the same state
does, and changes nothing else; a free channel is left alone. -/
def Obligations.EmulateAdvancesOscillatorsOnly : Prop :=
  ∀ (s : State) (w : Word) (rest : List Word), opcodeOf w = 0x32#8 →
    let P := Config.params
    decode (w :: rest) = .command (.emulate (bits 0 24 w)) rest ∧
    ∃ s', exec (.emulate (bits 0 24 w)) s = .next s' ∧
      (∀ c, (s.ch c).owner = none → s'.ch c = s.ch c) ∧
      (∀ c, (s.ch c).owner ≠ none →
        let x := s.ch c
        s'.ch c = { x with oscState := (fun q => (P.osc x.typ x.oscCfg x.timer q).2)^[P.spb] x.oscState }) ∧
      (∀ r toRec toOut, ∃ p, exec (.process r toRec toOut) s = .next p ∧ s'.channels = p.channels) ∧
      s'.tracks = s.tracks ∧ s'.mix = s.mix ∧ RsvOnly s s' ((w &&& 0x00FFFFFF#32) != 0#32) ∧ SameAround s s'

/-- R109 (b), (c): while the block is silent PROCESS emits only zero samples and the fade does not move. -/
def Obligations.SilentBlockRendersZeros : Prop :=
  ∀ (s : State) (rsv : BitVec 22) (toRec toOut : Bool), s.mix.silent = true →
    ∃ s', exec (.process rsv toRec toOut) s = .next s' ∧ s'.mix = s.mix ∧
      s'.audioQ = s.audioQ ++ (if toOut then [List.replicate (4 * Config.params.spb) 0#8] else []) ∧
      s'.recQ = s.recQ ++ (if toRec then [List.replicate (4 * Config.params.spb) 0#8] else [])

/-- R109 (a): FADE_OUT followed by PROCESS commands: the block falls silent at the 1920th and not before
(unless it was silent already), and the 1920th buffer is all zero whatever the channels hold. That the silence
begins with the completing call is a parameter of the spec, fixed at its default by the model (DESIGN CHOICE,
log 2). -/
def Obligations.FadeOutEndsInSilence : Prop :=
  ∀ (s : State) (flags : List (Bool × Bool)), flags.length ≤ 1920 →
    ∃ s', runCommands (.fadeOut 0 :: flags.map fun f => .process 0 f.1 f.2) s = .next s' ∧
      (s'.mix.silent = true ↔ s.mix.silent = true ∨ flags.length = 1920) ∧
      (flags.length = 1920 → ∀ f, flags.getLast? = some f →
        (f.2 = true → s'.audioQ.getLast? = some (List.replicate (4 * Config.params.spb) 0#8)) ∧
        (f.1 = true → s'.recQ.getLast? = some (List.replicate (4 * Config.params.spb) 0#8)))

/-- R110, R111, R16: a channel's contribution to a frame, its extremes, what is not summed, and the bound on a
mixed sum. -/
def Obligations.ContributionsAreBounded : Prop :=
  (∀ (c : Channel) (smp : BitVec 16),
    let lr := contrib c smp.toInt
    let a := (smp.toInt * c.volume.toNat).tdiv 127
    lr = ((a * (64 - c.pan.toInt)).tdiv 128, (a * (64 + c.pan.toInt)).tdiv 128) ∧
    lr.1.natAbs ≤ 32768 ∧ lr.2.natAbs ≤ 32768 ∧
    (c.pan.toInt = -64 → lr = (a, 0)) ∧ (c.pan.toInt = 0 → lr = (a.tdiv 2, a.tdiv 2)) ∧
    (c.volume = 0 → lr = (0, 0))) ∧
  (∀ (mute : Bank Bool) (c : Channel),
    (c.owner = none → frameContrib Config.params mute c = (0, 0)) ∧
    (∀ t, c.owner = some t → mute[t.val] = true → frameContrib Config.params mute c = (0, 0)) ∧
    (∀ t, c.owner = some t → mute[t.val] = false → frameContrib Config.params mute c =
      contrib c (Config.params.osc c.typ c.oscCfg c.timer c.oscState).1.toInt)) ∧
  (∀ (mute : Bank Bool) (chs : Bank Channel),
    (frameSums Config.params mute chs).1.natAbs ≤ 16 * 32768 ∧
    (frameSums Config.params mute chs).2.natAbs ≤ 16 * 32768)

/-- R17, R112, R14: on finite operands `f32_add`, `f32_sub` and `f32_mul` are the binary32 nearest to the
exact sum, difference and product, ties to even, and `<` is the order of the values; RECIP is the nearest to
1/SPB. A mixed sum is exact in binary32; at every finite level the output sample is the rounded product clamped
to 16 bits and truncated, so at master level 1.0 it is the sum clamped. The signs of zeros and the infinity past
the largest finite value are those of IEEE 754, which R17 names (log 9). -/
def Obligations.UnityLevelClampsTheSum : Prop :=
  (∀ x y : Binary32, f32IsFinite x = true → f32IsFinite y = true →
    IsNearest (f32Add x y) (f32Units x + f32Units y) 1 ∧
    (f32Units x + f32Units y = 0 → f32Add x y = if f32Sign x && f32Sign y then 0x80000000#32 else 0x00000000#32) ∧
    IsNearest (f32Sub x y) (f32Units x - f32Units y) 1 ∧
    (f32Units x - f32Units y = 0 → f32Sub x y = if f32Sign x && !f32Sign y then 0x80000000#32 else 0x00000000#32) ∧
    IsNearest (f32Mul x y) (f32Units x * f32Units y) (2 ^ 149) ∧
    f32Sign (f32Mul x y) = (f32Sign x != f32Sign y) ∧
    f32Lt x y = decide (f32Units x < f32Units y)) ∧
  (∀ n : Nat, 0 < n → IsNearest (f32Recip n) (2 ^ 149) n) ∧
  (∀ (n : Int) (level : Binary32), n.natAbs < 2 ^ 24 → f32IsFinite level = true →
    f32IsFinite (f32OfInt n) = true ∧ f32Units (f32OfInt n) = n * 2 ^ 149 ∧
    ∃ p, IsNearest p (n * f32Units level) 1 ∧
      (out16 n level).toInt =
        if f32IsFinite p then max (-32768) (min 32767 ((f32Units p).tdiv (2 ^ 149)))
        else if n * f32Units level < 0 then -32768 else 32767) ∧
  (∀ n : Int, n.natAbs < 2 ^ 24 → (out16 n 0x3F800000#32).toInt = max (-32768) (min 32767 n))

/-! ### Control commands -/

/-- R115, R116: NOP changes nothing but `st.rsv`, and that only when a reserved bit is set; CLR_STATUS clears
the status record, then checks its reserved bits, and changes nothing else. -/
def Obligations.ControlCommands : Prop :=
  (∀ (s : State) (w : Word) (rest : List Word), opcodeOf w = 0x00#8 →
    decode (w :: rest) = .command (.nop (bits 0 24 w)) rest ∧
    exec (.nop (bits 0 24 w)) s =
      .next { s with st := { s.st with rsv := s.st.rsv || (w &&& 0x00FFFFFF#32) != 0#32 } }) ∧
  (∀ (s : State) (w : Word) (rest : List Word), opcodeOf w = 0x4F#8 →
    decode (w :: rest) = .command (.clrStatus (bits 0 24 w)) rest ∧
    exec (.clrStatus (bits 0 24 w)) s =
      .next { s with st := { unk := false, rsv := (w &&& 0x00FFFFFF#32) != 0#32, drop := false, lastNote := 0 } })

/-! ### Whole-machine rules -/

/-- R86: the envelope state of a channel changes only by CH_TICK, forward, or by NOTE, to Attack. -/
def Obligations.EnvelopeTransitionsAreTheTable : Prop :=
  ∀ (i : Instr) (s s' : State) (c : ChanIdx), exec i s = .next s' →
    let a := (s.ch c).state
    let b := (s'.ch c).state
    b = a ∨ ((∃ n, i = .note n) ∧ b = .attack) ∨
      ((∃ r, i = .chTick r) ∧ (s.ch c).owner ≠ none ∧
        ((a = .attack ∧ (b = .decay ∨ b = .release)) ∨ (a = .decay ∧ (b = .sustain ∨ b = .release)) ∨
          (a = .sustain ∧ b = .release)))

/-- R101: CH_TICK is the only command in which a channel enters Release. -/
def Obligations.OnlyChTickEntersRelease : Prop :=
  ∀ (i : Instr) (s s' : State) (c : ChanIdx), exec i s = .next s' →
    (s.ch c).state ≠ .release → (s'.ch c).state = .release →
    ∃ r, i = .chTick r ∧ ∃ t, (s.ch c).owner = some t ∧ (s.ch c).dur = 0 ∧ (s.trk t).waitNote = false

/-- R46, R101: a channel's owner changes only inside NOTE, CH_STOP, TRK_INIT and CH_TICK; only NOTE gives a
channel an owner, and CH_TICK frees only channels in Release. -/
def Obligations.OwnershipChangesOnlyInFourCommands : Prop :=
  ∀ (i : Instr) (s s' : State) (c : ChanIdx), exec i s = .next s' → (s'.ch c).owner ≠ (s.ch c).owner →
    (∃ n, i = .note n ∧ (s'.ch c).owner = some n.t) ∨
    ((s'.ch c).owner = none ∧
      ((∃ hi lo, i = .chStop hi c lo) ∨
       (∃ t r, i = .trkInit t r ∧ (s.ch c).owner = some t) ∨
       (∃ r, i = .chTick r ∧ (s'.ch c).state = .release)))

/-- R118, R119: the event bits are sticky: only CLR_STATUS clears one; no command raises UNK, only NOTE
raises DROP, and only NOTE and CLR_STATUS write the record of the last NOTE. -/
def Obligations.EventBitsAreSticky : Prop :=
  ∀ (i : Instr) (s s' : State), exec i s = .next s' →
    ((∃ r, i = .clrStatus r) → s'.st.unk = false ∧ s'.st.drop = false ∧ s'.st.lastNote = 0#32) ∧
    ((∀ r, i ≠ .clrStatus r) → s'.st.unk = s.st.unk ∧ (s.st.rsv = true → s'.st.rsv = true) ∧
      (s.st.drop = true → s'.st.drop = true)) ∧
    ((∀ r, i ≠ .clrStatus r) → (∀ n, i ≠ .note n) → s'.st.drop = s.st.drop ∧ s'.st.lastNote = s.st.lastNote)

/-- R29: no command's semantics reads the status registers: two states that differ in them alone lead to
states that differ in them alone. -/
def Obligations.StatusIsNeverRead : Prop :=
  ∀ (i : Instr) (s : State) (other : Status), ∃ a b, exec i s = .next a ∧
    exec i { s with st := other } = .next b ∧ { a with st := other } = { b with st := other }

/-- R136, D22: after k ticks of its owner a channel's duration is down by k, never below 0; a negative
duration is kept. -/
def Obligations.DurationCountsDownByTicks : Prop :=
  ∀ (k : Nat) (s : State) (t : TrackIdx) (c : ChanIdx), (s.ch c).owner = some t →
    ∃ s', runCommands (List.replicate k (.trkTick t 0)) s = .next s' ∧ (s'.ch c).owner = some t ∧
      (s'.ch c).dur.toInt =
        (if (s.ch c).dur.toInt < 0 then (s.ch c).dur.toInt else max 0 ((s.ch c).dur.toInt - k))

/-- R131: the state after reset meets the invariant of Safety.lean. -/
def Obligations.InvariantHoldsAtReset : Prop := State.reset.Inv

/-- R22, R27, R29, R30, R103 to R108, R17: every step from a state that meets the invariant leads to one that
meets it, in states no run reaches too: every register in range, the fade registers on the path of their fade,
and no binary32 register a NaN or an infinity. -/
def Obligations.StepKeepsTheInvariant : Prop :=
  ∀ s s' : State, s.Inv → step s = .next s' → s'.Inv
end

