-- ==== Sys2Proof/Laws/State.lean ====
section
/-! SUPPORT. The small lemmas of the state: one per field per update, true by rfl, and what reading a
channel or a track after an update gives. No later proof needs to unfold a record update. -/

namespace Sys2Proof.Machine

variable (s : State)

@[simp] theorem State.setCh_channels (c : ChanIdx) (x : Channel) : (s.setCh c x).channels = s.channels.set c.val x := rfl
@[simp] theorem State.setCh_tracks (c : ChanIdx) (x : Channel) : (s.setCh c x).tracks = s.tracks := rfl
@[simp] theorem State.setCh_mix (c : ChanIdx) (x : Channel) : (s.setCh c x).mix = s.mix := rfl
@[simp] theorem State.setCh_st (c : ChanIdx) (x : Channel) : (s.setCh c x).st = s.st := rfl
@[simp] theorem State.setCh_audioQ (c : ChanIdx) (x : Channel) : (s.setCh c x).audioQ = s.audioQ := rfl
@[simp] theorem State.setCh_recQ (c : ChanIdx) (x : Channel) : (s.setCh c x).recQ = s.recQ := rfl
@[simp] theorem State.setCh_stream (c : ChanIdx) (x : Channel) : (s.setCh c x).stream = s.stream := rfl
@[simp] theorem State.setCh_pos (c : ChanIdx) (x : Channel) : (s.setCh c x).pos = s.pos := rfl
@[simp] theorem State.setCh_host (c : ChanIdx) (x : Channel) : (s.setCh c x).host = s.host := rfl
@[simp] theorem State.setCh_rx (c : ChanIdx) (x : Channel) : (s.setCh c x).rx = s.rx := rfl

@[simp] theorem State.setTrk_channels (t : TrackIdx) (x : Track) : (s.setTrk t x).channels = s.channels := rfl
@[simp] theorem State.setTrk_tracks (t : TrackIdx) (x : Track) : (s.setTrk t x).tracks = s.tracks.set t.val x := rfl
@[simp] theorem State.setTrk_mix (t : TrackIdx) (x : Track) : (s.setTrk t x).mix = s.mix := rfl
@[simp] theorem State.setTrk_st (t : TrackIdx) (x : Track) : (s.setTrk t x).st = s.st := rfl
@[simp] theorem State.setTrk_audioQ (t : TrackIdx) (x : Track) : (s.setTrk t x).audioQ = s.audioQ := rfl
@[simp] theorem State.setTrk_recQ (t : TrackIdx) (x : Track) : (s.setTrk t x).recQ = s.recQ := rfl
@[simp] theorem State.setTrk_stream (t : TrackIdx) (x : Track) : (s.setTrk t x).stream = s.stream := rfl
@[simp] theorem State.setTrk_pos (t : TrackIdx) (x : Track) : (s.setTrk t x).pos = s.pos := rfl
@[simp] theorem State.setTrk_host (t : TrackIdx) (x : Track) : (s.setTrk t x).host = s.host := rfl
@[simp] theorem State.setTrk_rx (t : TrackIdx) (x : Track) : (s.setTrk t x).rx = s.rx := rfl

@[simp] theorem State.modTrk_channels (t : TrackIdx) (f : Track → Track) : (s.modTrk t f).channels = s.channels := rfl
@[simp] theorem State.modTrk_tracks (t : TrackIdx) (f : Track → Track) : (s.modTrk t f).tracks = s.tracks.set t.val (f (s.trk t)) := rfl
@[simp] theorem State.modTrk_mix (t : TrackIdx) (f : Track → Track) : (s.modTrk t f).mix = s.mix := rfl
@[simp] theorem State.modTrk_st (t : TrackIdx) (f : Track → Track) : (s.modTrk t f).st = s.st := rfl
@[simp] theorem State.modTrk_audioQ (t : TrackIdx) (f : Track → Track) : (s.modTrk t f).audioQ = s.audioQ := rfl
@[simp] theorem State.modTrk_recQ (t : TrackIdx) (f : Track → Track) : (s.modTrk t f).recQ = s.recQ := rfl
@[simp] theorem State.modTrk_stream (t : TrackIdx) (f : Track → Track) : (s.modTrk t f).stream = s.stream := rfl
@[simp] theorem State.modTrk_pos (t : TrackIdx) (f : Track → Track) : (s.modTrk t f).pos = s.pos := rfl
@[simp] theorem State.modTrk_host (t : TrackIdx) (f : Track → Track) : (s.modTrk t f).host = s.host := rfl
@[simp] theorem State.modTrk_rx (t : TrackIdx) (f : Track → Track) : (s.modTrk t f).rx = s.rx := rfl

@[simp] theorem State.mapCh_channels (f : Channel → Channel) : (s.mapCh f).channels = bankMap (fun _ x => f x) s.channels := rfl
@[simp] theorem State.mapCh_tracks (f : Channel → Channel) : (s.mapCh f).tracks = s.tracks := rfl
@[simp] theorem State.mapCh_mix (f : Channel → Channel) : (s.mapCh f).mix = s.mix := rfl
@[simp] theorem State.mapCh_st (f : Channel → Channel) : (s.mapCh f).st = s.st := rfl
@[simp] theorem State.mapCh_audioQ (f : Channel → Channel) : (s.mapCh f).audioQ = s.audioQ := rfl
@[simp] theorem State.mapCh_recQ (f : Channel → Channel) : (s.mapCh f).recQ = s.recQ := rfl
@[simp] theorem State.mapCh_stream (f : Channel → Channel) : (s.mapCh f).stream = s.stream := rfl
@[simp] theorem State.mapCh_pos (f : Channel → Channel) : (s.mapCh f).pos = s.pos := rfl
@[simp] theorem State.mapCh_host (f : Channel → Channel) : (s.mapCh f).host = s.host := rfl
@[simp] theorem State.mapCh_rx (f : Channel → Channel) : (s.mapCh f).rx = s.rx := rfl

@[simp] theorem State.stopCh_channels (c : ChanIdx) : (s.stopCh c).channels = s.channels.set c.val (s.ch c).stop := rfl
@[simp] theorem State.stopCh_tracks (c : ChanIdx) : (s.stopCh c).tracks = s.tracks := rfl
@[simp] theorem State.stopCh_mix (c : ChanIdx) : (s.stopCh c).mix = s.mix := rfl
@[simp] theorem State.stopCh_st (c : ChanIdx) : (s.stopCh c).st = s.st := rfl
@[simp] theorem State.stopCh_audioQ (c : ChanIdx) : (s.stopCh c).audioQ = s.audioQ := rfl
@[simp] theorem State.stopCh_recQ (c : ChanIdx) : (s.stopCh c).recQ = s.recQ := rfl
@[simp] theorem State.stopCh_stream (c : ChanIdx) : (s.stopCh c).stream = s.stream := rfl
@[simp] theorem State.stopCh_pos (c : ChanIdx) : (s.stopCh c).pos = s.pos := rfl
@[simp] theorem State.stopCh_host (c : ChanIdx) : (s.stopCh c).host = s.host := rfl
@[simp] theorem State.stopCh_rx (c : ChanIdx) : (s.stopCh c).rx = s.rx := rfl

@[simp] theorem State.modMix_channels (f : Mixer → Mixer) : (s.modMix f).channels = s.channels := rfl
@[simp] theorem State.modMix_tracks (f : Mixer → Mixer) : (s.modMix f).tracks = s.tracks := rfl
@[simp] theorem State.modMix_mix (f : Mixer → Mixer) : (s.modMix f).mix = f s.mix := rfl
@[simp] theorem State.modMix_st (f : Mixer → Mixer) : (s.modMix f).st = s.st := rfl
@[simp] theorem State.modMix_audioQ (f : Mixer → Mixer) : (s.modMix f).audioQ = s.audioQ := rfl
@[simp] theorem State.modMix_recQ (f : Mixer → Mixer) : (s.modMix f).recQ = s.recQ := rfl
@[simp] theorem State.modMix_stream (f : Mixer → Mixer) : (s.modMix f).stream = s.stream := rfl
@[simp] theorem State.modMix_pos (f : Mixer → Mixer) : (s.modMix f).pos = s.pos := rfl
@[simp] theorem State.modMix_host (f : Mixer → Mixer) : (s.modMix f).host = s.host := rfl
@[simp] theorem State.modMix_rx (f : Mixer → Mixer) : (s.modMix f).rx = s.rx := rfl

@[simp] theorem State.raiseUnk_channels : s.raiseUnk.channels = s.channels := rfl
@[simp] theorem State.raiseUnk_tracks : s.raiseUnk.tracks = s.tracks := rfl
@[simp] theorem State.raiseUnk_mix : s.raiseUnk.mix = s.mix := rfl
@[simp] theorem State.raiseUnk_st : s.raiseUnk.st = { s.st with unk := true } := rfl
@[simp] theorem State.raiseUnk_audioQ : s.raiseUnk.audioQ = s.audioQ := rfl
@[simp] theorem State.raiseUnk_recQ : s.raiseUnk.recQ = s.recQ := rfl
@[simp] theorem State.raiseUnk_stream : s.raiseUnk.stream = s.stream := rfl
@[simp] theorem State.raiseUnk_pos : s.raiseUnk.pos = s.pos := rfl
@[simp] theorem State.raiseUnk_host : s.raiseUnk.host = s.host := rfl
@[simp] theorem State.raiseUnk_rx : s.raiseUnk.rx = s.rx := rfl

@[simp] theorem State.raiseRsv_channels : s.raiseRsv.channels = s.channels := rfl
@[simp] theorem State.raiseRsv_tracks : s.raiseRsv.tracks = s.tracks := rfl
@[simp] theorem State.raiseRsv_mix : s.raiseRsv.mix = s.mix := rfl
@[simp] theorem State.raiseRsv_st : s.raiseRsv.st = { s.st with rsv := true } := rfl
@[simp] theorem State.raiseRsv_audioQ : s.raiseRsv.audioQ = s.audioQ := rfl
@[simp] theorem State.raiseRsv_recQ : s.raiseRsv.recQ = s.recQ := rfl
@[simp] theorem State.raiseRsv_stream : s.raiseRsv.stream = s.stream := rfl
@[simp] theorem State.raiseRsv_pos : s.raiseRsv.pos = s.pos := rfl
@[simp] theorem State.raiseRsv_host : s.raiseRsv.host = s.host := rfl
@[simp] theorem State.raiseRsv_rx : s.raiseRsv.rx = s.rx := rfl

@[simp] theorem State.raiseDrop_channels : s.raiseDrop.channels = s.channels := rfl
@[simp] theorem State.raiseDrop_tracks : s.raiseDrop.tracks = s.tracks := rfl
@[simp] theorem State.raiseDrop_mix : s.raiseDrop.mix = s.mix := rfl
@[simp] theorem State.raiseDrop_st : s.raiseDrop.st = { s.st with drop := true } := rfl
@[simp] theorem State.raiseDrop_audioQ : s.raiseDrop.audioQ = s.audioQ := rfl
@[simp] theorem State.raiseDrop_recQ : s.raiseDrop.recQ = s.recQ := rfl
@[simp] theorem State.raiseDrop_stream : s.raiseDrop.stream = s.stream := rfl
@[simp] theorem State.raiseDrop_pos : s.raiseDrop.pos = s.pos := rfl
@[simp] theorem State.raiseDrop_host : s.raiseDrop.host = s.host := rfl
@[simp] theorem State.raiseDrop_rx : s.raiseDrop.rx = s.rx := rfl

@[simp] theorem State.rsvCheck_channels (bad : Bool) : (s.rsvCheck bad).channels = s.channels := rfl
@[simp] theorem State.rsvCheck_tracks (bad : Bool) : (s.rsvCheck bad).tracks = s.tracks := rfl
@[simp] theorem State.rsvCheck_mix (bad : Bool) : (s.rsvCheck bad).mix = s.mix := rfl
@[simp] theorem State.rsvCheck_st (bad : Bool) : (s.rsvCheck bad).st = { s.st with rsv := s.st.rsv || bad } := rfl
@[simp] theorem State.rsvCheck_audioQ (bad : Bool) : (s.rsvCheck bad).audioQ = s.audioQ := rfl
@[simp] theorem State.rsvCheck_recQ (bad : Bool) : (s.rsvCheck bad).recQ = s.recQ := rfl
@[simp] theorem State.rsvCheck_stream (bad : Bool) : (s.rsvCheck bad).stream = s.stream := rfl
@[simp] theorem State.rsvCheck_pos (bad : Bool) : (s.rsvCheck bad).pos = s.pos := rfl
@[simp] theorem State.rsvCheck_host (bad : Bool) : (s.rsvCheck bad).host = s.host := rfl
@[simp] theorem State.rsvCheck_rx (bad : Bool) : (s.rsvCheck bad).rx = s.rx := rfl

@[simp] theorem State.setLastNote_channels (w : Word) : (s.setLastNote w).channels = s.channels := rfl
@[simp] theorem State.setLastNote_tracks (w : Word) : (s.setLastNote w).tracks = s.tracks := rfl
@[simp] theorem State.setLastNote_mix (w : Word) : (s.setLastNote w).mix = s.mix := rfl
@[simp] theorem State.setLastNote_st (w : Word) : (s.setLastNote w).st = { s.st with lastNote := w } := rfl
@[simp] theorem State.setLastNote_audioQ (w : Word) : (s.setLastNote w).audioQ = s.audioQ := rfl
@[simp] theorem State.setLastNote_recQ (w : Word) : (s.setLastNote w).recQ = s.recQ := rfl
@[simp] theorem State.setLastNote_stream (w : Word) : (s.setLastNote w).stream = s.stream := rfl
@[simp] theorem State.setLastNote_pos (w : Word) : (s.setLastNote w).pos = s.pos := rfl
@[simp] theorem State.setLastNote_host (w : Word) : (s.setLastNote w).host = s.host := rfl
@[simp] theorem State.setLastNote_rx (w : Word) : (s.setLastNote w).rx = s.rx := rfl

@[simp] theorem State.consume_channels (rest : List Word) : (s.consume rest).channels = s.channels := rfl
@[simp] theorem State.consume_tracks (rest : List Word) : (s.consume rest).tracks = s.tracks := rfl
@[simp] theorem State.consume_mix (rest : List Word) : (s.consume rest).mix = s.mix := rfl
@[simp] theorem State.consume_st (rest : List Word) : (s.consume rest).st = s.st := rfl
@[simp] theorem State.consume_audioQ (rest : List Word) : (s.consume rest).audioQ = s.audioQ := rfl
@[simp] theorem State.consume_recQ (rest : List Word) : (s.consume rest).recQ = s.recQ := rfl
@[simp] theorem State.consume_stream (rest : List Word) : (s.consume rest).stream = rest := rfl
@[simp] theorem State.consume_pos (rest : List Word) : (s.consume rest).pos = s.pos + (s.stream.length - rest.length) := rfl
@[simp] theorem State.consume_host (rest : List Word) : (s.consume rest).host = s.host := rfl
@[simp] theorem State.consume_rx (rest : List Word) : (s.consume rest).rx = s.rx := rfl

/-! ### Reading after writing -/

theorem State.ch_eq (c : ChanIdx) : s.ch c = s.channels[c.val] := rfl

theorem State.trk_eq (t : TrackIdx) : s.trk t = s.tracks[t.val] := rfl

@[simp] theorem State.setCh_trk (c : ChanIdx) (x : Channel) (u : TrackIdx) : (s.setCh c x).trk u = s.trk u := rfl
@[simp] theorem State.setTrk_ch (t : TrackIdx) (x : Track) (d : ChanIdx) : (s.setTrk t x).ch d = s.ch d := rfl
@[simp] theorem State.modTrk_ch (t : TrackIdx) (f : Track → Track) (d : ChanIdx) : (s.modTrk t f).ch d = s.ch d := rfl
@[simp] theorem State.mapCh_trk (f : Channel → Channel) (u : TrackIdx) : (s.mapCh f).trk u = s.trk u := rfl
@[simp] theorem State.stopCh_trk (c : ChanIdx) (u : TrackIdx) : (s.stopCh c).trk u = s.trk u := rfl
@[simp] theorem State.modMix_ch (f : Mixer → Mixer) (d : ChanIdx) : (s.modMix f).ch d = s.ch d := rfl
@[simp] theorem State.modMix_trk (f : Mixer → Mixer) (u : TrackIdx) : (s.modMix f).trk u = s.trk u := rfl
@[simp] theorem State.raiseUnk_ch (d : ChanIdx) : s.raiseUnk.ch d = s.ch d := rfl
@[simp] theorem State.raiseUnk_trk (u : TrackIdx) : s.raiseUnk.trk u = s.trk u := rfl
@[simp] theorem State.raiseRsv_ch (d : ChanIdx) : s.raiseRsv.ch d = s.ch d := rfl
@[simp] theorem State.raiseRsv_trk (u : TrackIdx) : s.raiseRsv.trk u = s.trk u := rfl
@[simp] theorem State.raiseDrop_ch (d : ChanIdx) : s.raiseDrop.ch d = s.ch d := rfl
@[simp] theorem State.raiseDrop_trk (u : TrackIdx) : s.raiseDrop.trk u = s.trk u := rfl
@[simp] theorem State.rsvCheck_ch (bad : Bool) (d : ChanIdx) : (s.rsvCheck bad).ch d = s.ch d := rfl
@[simp] theorem State.rsvCheck_trk (bad : Bool) (u : TrackIdx) : (s.rsvCheck bad).trk u = s.trk u := rfl
@[simp] theorem State.setLastNote_ch (w : Word) (d : ChanIdx) : (s.setLastNote w).ch d = s.ch d := rfl
@[simp] theorem State.setLastNote_trk (w : Word) (u : TrackIdx) : (s.setLastNote w).trk u = s.trk u := rfl
@[simp] theorem State.consume_ch (rest : List Word) (d : ChanIdx) : (s.consume rest).ch d = s.ch d := rfl
@[simp] theorem State.consume_trk (rest : List Word) (u : TrackIdx) : (s.consume rest).trk u = s.trk u := rfl

theorem State.setCh_ch (c d : ChanIdx) (x : Channel) : (s.setCh c x).ch d = if c = d then x else s.ch d := by
  simp [State.setCh, State.ch, Vector.getElem_set, Fin.ext_iff]

@[simp] theorem State.setCh_ch_same (c : ChanIdx) (x : Channel) : (s.setCh c x).ch c = x := by
  simp [State.setCh_ch]

theorem State.setCh_ch_other {c d : ChanIdx} (h : d ≠ c) (x : Channel) : (s.setCh c x).ch d = s.ch d := by
  rw [State.setCh_ch, if_neg (Ne.symm h)]

theorem State.setTrk_trk (t u : TrackIdx) (x : Track) : (s.setTrk t x).trk u = if t = u then x else s.trk u := by
  simp [State.setTrk, State.trk, Vector.getElem_set, Fin.ext_iff]

@[simp] theorem State.setTrk_trk_same (t : TrackIdx) (x : Track) : (s.setTrk t x).trk t = x := by
  simp [State.setTrk_trk]

theorem State.setTrk_trk_other {t u : TrackIdx} (h : u ≠ t) (x : Track) : (s.setTrk t x).trk u = s.trk u := by
  rw [State.setTrk_trk, if_neg (Ne.symm h)]

theorem State.modTrk_trk (t u : TrackIdx) (f : Track → Track) :
    (s.modTrk t f).trk u = if t = u then f (s.trk t) else s.trk u := State.setTrk_trk s t u _

@[simp] theorem State.modTrk_trk_same (t : TrackIdx) (f : Track → Track) :
    (s.modTrk t f).trk t = f (s.trk t) := State.setTrk_trk_same s t _

theorem State.modTrk_trk_other {t u : TrackIdx} (h : u ≠ t) (f : Track → Track) :
    (s.modTrk t f).trk u = s.trk u := State.setTrk_trk_other s h _

theorem getElem_bankMap {α : Type} (f : Fin 16 → α → α) (v : Bank α) (i : Fin 16) :
    (bankMap f v)[i.val] = f i v[i.val] := by
  simp [bankMap]

@[simp] theorem State.mapCh_ch (f : Channel → Channel) (c : ChanIdx) : (s.mapCh f).ch c = f (s.ch c) :=
  getElem_bankMap _ _ c

@[simp] theorem State.stopCh_ch_same (c : ChanIdx) : (s.stopCh c).ch c = (s.ch c).stop :=
  State.setCh_ch_same s c _

theorem State.stopCh_ch_other {c d : ChanIdx} (h : d ≠ c) : (s.stopCh c).ch d = s.ch d :=
  State.setCh_ch_other s h _

/-- Two banks with the same entries are the same. -/
theorem bank_ext {α : Type} {v w : Bank α} (h : ∀ i : Fin 16, v[i.val] = w[i.val]) : v = w := by
  apply Vector.ext
  intro i hi
  exact h ⟨i, hi⟩

theorem mem_allIdx (i : Fin 16) : i ∈ allIdx := List.mem_finRange i

/-- R21: `owned(t)` holds exactly the channels whose owner is `t`. -/
theorem State.mem_owned (t : TrackIdx) (c : ChanIdx) : c ∈ s.owned t ↔ (s.ch c).owner = some t := by
  simp [State.owned, mem_allIdx]

theorem State.owned_eq_nil (t : TrackIdx) : s.owned t = [] ↔ ∀ c, (s.ch c).owner ≠ some t := by
  simp [State.owned, List.filter_eq_nil_iff, mem_allIdx]

end Sys2Proof.Machine
end

