-- ==== Sys2Proof/Laws/Arbiter.lean ====
section
/-! SUPPORT. What the arbiter's scan finds (R96), said once: the first of the best channels of the mask. -/

namespace Sys2Proof.Machine

variable (P : Params) (s : State) (ty : InstrType)

/-- Channel `b` comes before channel `c` for the arbiter: lower score, then lower volume, then lower index. -/
def Before (b c : ChanIdx) : Prop :=
  score s b < score s c ∨ (score s b = score s c ∧ ((s.ch b).volume.toNat < (s.ch c).volume.toNat ∨
    ((s.ch b).volume.toNat = (s.ch c).volume.toNat ∧ b ≤ c)))

theorem Before.refl (b : ChanIdx) : Before s b b := .inr ⟨rfl, .inr ⟨rfl, Nat.le_refl _⟩⟩

theorem Before.trans {s : State} {a b c : ChanIdx} (h : Before s a b) (h' : Before s b c) : Before s a c := by
  simp only [Before, Fin.le_def] at *
  omega

theorem better_iff (c b : ChanIdx) : better s c b = true ↔
    score s c < score s b ∨ (score s c = score s b ∧ (s.ch c).volume.toNat < (s.ch b).volume.toNat) := by
  simp [better]

theorem scanStep_of_not_mem {best : Option ChanIdx} {c : ChanIdx} (h : maskHas P ty c = false) :
    scanStep P s ty best c = best := by
  simp [scanStep, h]

/-- The fold over ascending indices above `best` ends with the first of the best channels seen. -/
theorem foldl_scanStep (l : List ChanIdx) (hl : l.Pairwise (· < ·)) (best : Option ChanIdx)
    (hb : ∀ b, best = some b → ∀ c ∈ l, b < c) :
    (l.foldl (scanStep P s ty) best = none → best = none ∧ ∀ c ∈ l, maskHas P ty c = false) ∧
    (∀ b, l.foldl (scanStep P s ty) best = some b →
      (best = some b ∨ (b ∈ l ∧ maskHas P ty b = true)) ∧
      (∀ b', best = some b' → Before s b b') ∧ ∀ c ∈ l, maskHas P ty c = true → Before s b c) := by
  induction l generalizing best with
  | nil =>
    refine ⟨fun h => ⟨h, by simp⟩, fun b h => ⟨.inl h, fun b' h' => ?_, by simp⟩⟩
    have : b = b' := Option.some.inj (h.symm.trans h')
    exact this ▸ Before.refl s b
  | cons a l ih =>
    obtain ⟨ha, hl⟩ := List.pairwise_cons.1 hl
    rw [List.foldl_cons]
    by_cases hm : maskHas P ty a = true
    · -- the channel is a candidate: it or the best so far stays
      obtain ⟨w, hw, hwa, hwb, hsrc⟩ : ∃ w, scanStep P s ty best a = some w ∧ Before s w a ∧
          (∀ b', best = some b' → Before s w b') ∧ (best = some w ∨ w = a) := by
        cases hbest : best with
        | none => exact ⟨a, by simp [scanStep, hm], Before.refl s a, by simp, .inr rfl⟩
        | some b =>
          have hlt : b < a := hb b hbest a (by simp)
          by_cases hc : better s a b = true
          · refine ⟨a, by simp [scanStep, hm, hc], Before.refl s a, fun b' hb' => ?_, .inr rfl⟩
            cases hb'
            rcases (better_iff s a b).1 hc with h | ⟨h, h'⟩
            · exact .inl h
            · exact .inr ⟨h, .inl h'⟩
          · refine ⟨b, by simp [scanStep, hm, hc], ?_, fun b' hb' => ?_, .inl rfl⟩
            · rw [better_iff] at hc
              simp only [Before, Fin.le_def, Fin.lt_def] at *
              omega
            · cases hb'
              exact Before.refl s b
      have hbound : ∀ b, some w = some b → ∀ c ∈ l, b < c := by
        intro b h c hc
        cases h
        rcases hsrc with h | h
        · exact hb w h c (by simp [hc])
        · exact h ▸ ha c hc
      rw [hw]
      obtain ⟨h1, h2⟩ := ih hl (some w) hbound
      refine ⟨fun h => absurd (h1 h).1 (by simp), fun b h => ?_⟩
      obtain ⟨hin, hbw, hrest⟩ := h2 b h
      refine ⟨?_, fun b' h' => (hbw w rfl).trans (hwb b' h'), ?_⟩
      · rcases hin with h | ⟨h, h'⟩
        · cases h
          rcases hsrc with h | h
          · exact .inl h
          · exact .inr ⟨by simp [h], h ▸ hm⟩
        · exact .inr ⟨by simp [h], h'⟩
      · intro c hc hcm
        rcases List.mem_cons.1 hc with h | h
        · exact h ▸ (hbw w rfl).trans hwa
        · exact hrest c h hcm
    · have hm' : maskHas P ty a = false := by simpa using hm
      rw [scanStep_of_not_mem P s ty hm']
      obtain ⟨h1, h2⟩ := ih hl best fun b h c hc => hb b h c (by simp [hc])
      refine ⟨fun h => ⟨(h1 h).1, fun c hc => ?_⟩, fun b h => ?_⟩
      · rcases List.mem_cons.1 hc with h' | h'
        · exact h' ▸ hm'
        · exact (h1 h).2 c h'
      · obtain ⟨hin, hbw, hrest⟩ := h2 b h
        refine ⟨?_, hbw, fun c hc hcm => ?_⟩
        · rcases hin with h | ⟨h, h'⟩
          · exact .inl h
          · exact .inr ⟨by simp [h], h'⟩
        · rcases List.mem_cons.1 hc with h' | h'
          · exact absurd (h' ▸ hcm) hm
          · exact hrest c h' hcm

/-- R96: the scan answers none exactly on an empty mask. -/
theorem scan_none (h : scan P s ty = none) (c : ChanIdx) : maskHas P ty c = false :=
  ((foldl_scanStep P s ty allIdx (List.pairwise_lt_finRange 16) none (by simp)).1 h).2 c (mem_allIdx c)

/-- R96: the scan's channel is in the mask and comes before every other channel of the mask. -/
theorem scan_some {b : ChanIdx} (h : scan P s ty = some b) :
    maskHas P ty b = true ∧ ∀ c, maskHas P ty c = true → Before s b c := by
  obtain ⟨hin, _, hall⟩ := (foldl_scanStep P s ty allIdx (List.pairwise_lt_finRange 16) none (by simp)).2 b h
  refine ⟨?_, fun c => hall c (mem_allIdx c)⟩
  rcases hin with h' | h'
  · cases h'
  · exact h'.2

end Sys2Proof.Machine
end

