-- ==== Sys2Proof/Laws/Binary32.lean ====
section
/-! SUPPORT. Binary32 rounding said once (R17): the units of a pattern grow with it, and `f32Round` is the
nearest pattern, ties to even. -/

namespace Sys2Proof.Machine

/-- The value of a magnitude in units of 2^-149. -/
def magUnits (n : Nat) : Nat :=
  if n / 2 ^ 23 = 0 then n % 2 ^ 23 else (2 ^ 23 + n % 2 ^ 23) * 2 ^ (n / 2 ^ 23 - 1)

theorem f32Units_eq (x : Binary32) :
    f32Units x = if f32Sign x then -(magUnits (f32Mag x) : Int) else (magUnits (f32Mag x) : Int) := rfl

/-- A magnitude split at its spacing: `m` steps of `2^k` units. -/
theorem magUnits_split {k m : Nat} (hm : m ≤ 2 ^ 24) (hk : k = 0 ∨ 2 ^ 23 ≤ m) :
    magUnits (k * 2 ^ 23 + m) = m * 2 ^ k := by
  unfold magUnits
  by_cases h1 : m < 2 ^ 23
  · have h0 : k = 0 := by omega
    subst h0
    rw [if_pos (by omega)]
    omega
  · by_cases h2 : m = 2 ^ 24
    · subst h2
      have e : (k * 2 ^ 23 + 2 ^ 24) / 2 ^ 23 = k + 2 := by omega
      have f : (k * 2 ^ 23 + 2 ^ 24) % 2 ^ 23 = 0 := by omega
      rw [e, f, if_neg (by omega), show k + 2 - 1 = k + 1 by omega, Nat.pow_succ]
      ring
    · have e : (k * 2 ^ 23 + m) / 2 ^ 23 = k + 1 := by omega
      have f : (k * 2 ^ 23 + m) % 2 ^ 23 = m - 2 ^ 23 := by omega
      rw [e, f, if_neg (by omega), show k + 1 - 1 = k by omega, Nat.add_sub_cancel' (by omega)]

theorem magUnits_lt_succ (n : Nat) : magUnits n < magUnits (n + 1) := by
  obtain ⟨k, m, rfl, hm, hk⟩ : ∃ k m, n = k * 2 ^ 23 + m ∧ m < 2 ^ 24 ∧ (k = 0 ∨ 2 ^ 23 ≤ m) :=
    ⟨n / 2 ^ 23 - 1, n - (n / 2 ^ 23 - 1) * 2 ^ 23, by omega, by omega, by omega⟩
  rw [Nat.add_assoc, magUnits_split hm.le hk, magUnits_split hm (by omega)]
  exact Nat.mul_lt_mul_of_pos_right (Nat.lt_succ_self m) (by positivity)

theorem magUnits_strictMono : StrictMono magUnits := strictMono_nat_of_lt_succ magUnits_lt_succ

theorem f32Sign_eq (x : Binary32) : f32Sign x = decide (2 ^ 31 ≤ x.toNat) := by
  rw [← BitVec.msb_eq_decide (w := 32) x]
  simp [f32Sign, BitVec.msb, BitVec.getMsbD]

theorem f32Pattern_toNat (neg : Bool) {n : Nat} (h : n < 2 ^ 31) :
    (f32Pattern neg n).toNat = if neg then 2 ^ 31 + n else n := by
  cases neg <;> simp [f32Pattern] <;> omega

theorem f32Sign_pattern (neg : Bool) {n : Nat} (h : n < 2 ^ 31) : f32Sign (f32Pattern neg n) = neg := by
  rw [f32Sign_eq, f32Pattern_toNat neg h]
  cases neg <;> simp; omega

theorem f32Mag_pattern (neg : Bool) {n : Nat} (h : n < 2 ^ 31) : f32Mag (f32Pattern neg n) = n := by
  rw [f32Mag, f32Pattern_toNat neg h]
  cases neg <;> simp <;> omega

theorem f32Units_pattern (neg : Bool) {n : Nat} (h : n < 2 ^ 31) :
    f32Units (f32Pattern neg n) = if neg then -(magUnits n : Int) else (magUnits n : Int) := by
  rw [f32Units_eq, f32Sign_pattern neg h, f32Mag_pattern neg h]

theorem lastBit_pattern (neg : Bool) {n : Nat} (h : n < 2 ^ 31) :
    (f32Pattern neg n).getLsbD 0 = decide (n % 2 = 1) := by
  rw [BitVec.getLsbD, Nat.testBit_zero, f32Pattern_toNat neg h]
  cases neg <;> simp; omega

/-- What `f32Round` computes: spacing `2^k`, `q` whole steps and a remainder `r`, and `m` the nearer of `q`
and `q + 1`. -/
theorem f32Round_steps (neg : Bool) (num den : Nat) (hd : 0 < den) : ∃ k q r m : Nat,
    num = den * 2 ^ k * q + r ∧ r < den * 2 ^ k ∧ q < 2 ^ 24 ∧ (k = 0 ∨ 2 ^ 23 ≤ q) ∧
    (m = q ∧ (2 * r < den * 2 ^ k ∨ 2 * r = den * 2 ^ k ∧ q % 2 = 0) ∨
      m = q + 1 ∧ (den * 2 ^ k < 2 * r ∨ 2 * r = den * 2 ^ k ∧ q % 2 = 1)) ∧
    f32Round neg num den = f32Pattern neg (min (k * 2 ^ 23 + m) 0x7F800000) := by
  obtain ⟨k, hk⟩ : ∃ k, k = (num / den).log2 - 23 := ⟨_, rfl⟩
  have hp : 0 < den * 2 ^ k := by positivity
  have hq : num / (den * 2 ^ k) = num / den / 2 ^ k := (Nat.div_div_eq_div_mul ..).symm
  refine ⟨k, num / (den * 2 ^ k), num % (den * 2 ^ k), _, (Nat.div_add_mod ..).symm, Nat.mod_lt _ hp, ?_, ?_, ?_,
    by rw [f32Round, ← hk]⟩
  · rw [hq, Nat.div_lt_iff_lt_mul (by positivity), ← Nat.pow_add]
    exact Nat.lt_of_lt_of_le Nat.lt_log2_self (Nat.pow_le_pow_right (by omega) (by omega))
  · by_cases h0 : num / den = 0
    · exact .inl (by rw [hk, h0]; rfl)
    · by_cases h1 : (num / den).log2 < 23
      · exact .inl (by omega)
      · refine .inr ?_
        rw [hq, Nat.le_div_iff_mul_le (by positivity), ← Nat.pow_add]
        exact Nat.le_trans (Nat.pow_le_pow_right (by omega) (by omega)) (Nat.log2_self_le h0)
  · split <;> omega

theorem f32Sign_round (neg : Bool) (num den : Nat) (hd : 0 < den) : f32Sign (f32Round neg num den) = neg := by
  obtain ⟨k, q, r, m, -, -, -, -, -, h⟩ := f32Round_steps neg num den hd
  rw [h, f32Sign_pattern _ (by omega)]

/-- Every value lies at or below `q` steps or at or above `q + 1` steps, on the side of `neg`. -/
theorem f32Units_gap (neg : Bool) (y : Binary32) {k q : Nat} (hq : q < 2 ^ 24) (hk : k = 0 ∨ 2 ^ 23 ≤ q) :
    (if neg then -f32Units y else f32Units y) ≤ (q * 2 ^ k : Nat) ∨
      ((q + 1) * 2 ^ k : Nat) ≤ (if neg then -f32Units y else f32Units y) := by
  have key : magUnits (f32Mag y) ≤ q * 2 ^ k ∨ (q + 1) * 2 ^ k ≤ magUnits (f32Mag y) := by
    rw [← magUnits_split hq.le hk, ← magUnits_split (show q + 1 ≤ 2 ^ 24 by omega) (by omega)]
    rcases Nat.lt_or_ge (k * 2 ^ 23 + q) (f32Mag y) with h | h
    · exact .inr (magUnits_strictMono.monotone (by omega))
    · exact .inl (magUnits_strictMono.monotone h)
  rw [f32Units_eq]
  generalize magUnits (f32Mag y) = u at key ⊢
  generalize q * 2 ^ k = a at key ⊢
  generalize (q + 1) * 2 ^ k = b at key ⊢
  cases neg <;> cases f32Sign y <;> simp <;> omega

/-- The rounded magnitude reaches the infinity exactly from the midpoint above the largest finite value on. -/
theorem f32Round_overflow {k q r m num den : Nat} (hn : num = den * 2 ^ k * q + r) (hr : r < den * 2 ^ k)
    (hq : q < 2 ^ 24) (hk : k = 0 ∨ 2 ^ 23 ≤ q)
    (hm : m = q ∧ (2 * r < den * 2 ^ k ∨ 2 * r = den * 2 ^ k ∧ q % 2 = 0) ∨
      m = q + 1 ∧ (den * 2 ^ k < 2 * r ∨ 2 * r = den * 2 ^ k ∧ q % 2 = 1)) :
    (2 ^ 25 - 1) * 2 ^ 252 * den ≤ num ↔ 0x7F800000 ≤ k * 2 ^ 23 + m := by
  obtain ⟨e, he⟩ : ∃ e, e = den * 2 ^ 252 := ⟨_, rfl⟩
  have hl : (2 ^ 25 - 1) * 2 ^ 252 * den = (2 ^ 25 - 1) * e := by rw [he]; ring
  rw [hl]
  rcases Nat.lt_trichotomy k 253 with h | h | h
  · have h1 : den * 2 ^ k ≤ e := he ▸ Nat.mul_le_mul_left _ (Nat.pow_le_pow_right (by omega) (by omega))
    have h2 : den * 2 ^ k * q ≤ e * (2 ^ 24 - 1) := Nat.mul_le_mul h1 (by omega)
    omega
  · have h1 : den * 2 ^ k = e * 2 := by rw [h, he]; ring
    rw [h1] at hn hr hm
    by_cases h3 : q = 2 ^ 24 - 1
    · subst h3
      omega
    · have h2 : e * q ≤ e * (2 ^ 24 - 2) := Nat.mul_le_mul_left _ (by omega)
      rw [show e * 2 * q = 2 * (e * q) by ring] at hn
      omega
  · have h1 : 2 * 2 * e ≤ den * 2 ^ k := by
      rw [he, show 2 * 2 * (den * 2 ^ 252) = den * 2 ^ 254 by ring]
      exact Nat.mul_le_mul_left _ (Nat.pow_le_pow_right (by omega) (by omega))
    have h2 : 2 * 2 * e * 2 ^ 23 ≤ den * 2 ^ k * q := Nat.mul_le_mul h1 (by omega)
    omega

/-- R17: `f32Round` is the nearest, ties to even. -/
theorem f32Round_nearest (neg : Bool) (num den : Nat) (hd : 0 < den) :
    IsNearest (f32Round neg num den) (if neg then -(num : Int) else num) den := by
  obtain ⟨k, q, r, m, hn, hr, hq, hk, hm, hf⟩ := f32Round_steps neg num den hd
  have habs : (if neg then -(num : Int) else num).natAbs = num := by cases neg <;> simp
  have hover := f32Round_overflow hn hr hq hk hm
  unfold IsNearest
  simp only [habs, hf]
  split
  · rename_i h
    have h0 : 0 < (2 ^ 25 - 1) * 2 ^ 252 * den := by positivity
    rw [Nat.min_eq_right (hover.1 h)]
    congr 1
    cases neg <;> simp; omega
  · rename_i h
    have hlt : k * 2 ^ 23 + m < 0x7F800000 := by omega
    rw [Nat.min_eq_left hlt.le]
    have hM : k * 2 ^ 23 + m < 2 ^ 31 := by omega
    refine ⟨by rw [f32IsFinite, f32Mag_pattern _ hM]; exact decide_eq_true hlt, fun y _ => ?_⟩
    rw [f32Units_pattern neg hM, lastBit_pattern neg hM, magUnits_split (by omega) (by omega)]
    have gap := f32Units_gap neg y hq hk
    have scale : ∀ u : Int, (u * den - (if neg then -(num : Int) else num)).natAbs =
        ((if neg then -u else u) * den - num).natAbs := by
      intro u
      cases neg <;> simp; omega
    rw [scale, scale]
    obtain ⟨w, hw⟩ : ∃ w, w = if neg then -f32Units y else f32Units y := ⟨_, rfl⟩
    have hne : f32Units y ≠ (if neg then -((m * 2 ^ k : Nat) : Int) else ((m * 2 ^ k : Nat) : Int)) →
        w ≠ ((m * 2 ^ k : Nat) : Int) := by
      rw [hw]
      cases neg <;> simp; omega
    have hself : (if neg then -(if neg then -((m * 2 ^ k : Nat) : Int) else ((m * 2 ^ k : Nat) : Int))
        else (if neg then -((m * 2 ^ k : Nat) : Int) else ((m * 2 ^ k : Nat) : Int))) = ((m * 2 ^ k : Nat) : Int) := by
      cases neg <;> simp
    rw [hself, ← hw]
    rw [← hw] at gap
    clear hself scale hw hover hf habs
    have hden : (0 : Int) < den := by exact_mod_cast hd
    obtain ⟨a, ha⟩ : ∃ a : Int, a = den * 2 ^ k * q := ⟨_, rfl⟩
    obtain ⟨d, hD⟩ : ∃ d : Int, d = den * 2 ^ k := ⟨_, rfl⟩
    have hn' : (num : Int) = a + r := by rw [ha, hn]; push_cast; ring
    have gap' : w * den ≤ a ∨ a + d ≤ w * den := by
      refine gap.imp (fun h => ?_) fun h => ?_
      · calc w * den ≤ (q * 2 ^ k : Nat) * den := Int.mul_le_mul_of_nonneg_right h hden.le
          _ = a := by rw [ha]; push_cast; ring
      · calc a + d = ((q + 1) * 2 ^ k : Nat) * den := by rw [ha, hD]; push_cast; ring
          _ ≤ w * den := Int.mul_le_mul_of_nonneg_right h hden.le
    have ne' : w ≠ ((m * 2 ^ k : Nat) : Int) → w * den ≠ ((m * 2 ^ k : Nat) : Int) * den :=
      fun h e => h (Int.eq_of_mul_eq_mul_right hden.ne' e)
    have hr' : (r : Int) < d := by rw [hD]; exact_mod_cast hr
    have hm' : m = q ∧ (2 * (r : Int) < d ∨ 2 * (r : Int) = d ∧ q % 2 = 0) ∨
        m = q + 1 ∧ (d < 2 * (r : Int) ∨ 2 * (r : Int) = d ∧ q % 2 = 1) := by
      rw [hD]; exact_mod_cast hm
    have hu : ((m * 2 ^ k : Nat) : Int) * den = if m = q then a else a + d := by
      rcases hm' with ⟨rfl, -⟩ | ⟨rfl, -⟩
      · rw [if_pos rfl, ha]; push_cast; ring
      · rw [if_neg (by omega), ha, hD]; push_cast; ring
    rw [hu] at ne' ⊢
    rw [hn']
    generalize w * den = v at gap' ne' ⊢
    have hpar : (k * 2 ^ 23 + m) % 2 = m % 2 := by omega
    rw [hpar]
    clear hn hr hm gap hu ha hD hn' hden hlt hM hpar hk hq hd
    rcases hm' with ⟨rfl, hm⟩ | ⟨rfl, hm⟩
    · rw [if_pos rfl] at ne' ⊢
      refine ⟨by omega, fun he hy => decide_eq_false ?_⟩
      have := ne' (hne hy)
      omega
    · rw [if_neg (by omega)] at ne' ⊢
      refine ⟨by omega, fun he hy => decide_eq_false ?_⟩
      have := ne' (hne hy)
      omega

end Sys2Proof.Machine
end

