-- ==== Sys2Proof/Laws/Encoding.lean ====
section
/-! SUPPORT. Fields of encoded words: what each field of each format reads back as. -/

namespace Sys2Proof

@[simp] theorem getLsbD_pack {a n : Nat} (x : BitVec a) (h : a = n) (i : Nat) :
    (pack x h).getLsbD i = x.getLsbD i := by
  subst h
  rfl

@[simp] theorem getLsbD_bits (lo n : Nat) (w : Word) (i : Nat) :
    (bits lo n w).getLsbD i = (decide (i < n) && w.getLsbD (lo + i)) := by
  simp [bits]

/-- A field is known by its bits. -/
theorem bits_eq {lo n : Nat} {w : Word} {x : BitVec n} (h : ∀ i, i < n → w.getLsbD (lo + i) = x.getLsbD i) :
    bits lo n w = x := by
  apply BitVec.eq_of_getLsbD_eq
  intro i hi
  rw [getLsbD_bits, h i hi]
  simp only [hi, decide_true, Bool.true_and]

theorem getLsbD_header (op : BitVec 8) (body : BitVec 24) (i : Nat) :
    (header op body).getLsbD i = if i < 24 then body.getLsbD i else op.getLsbD (i - 24) := by
  simp only [header, getLsbD_pack, BitVec.getLsbD_append]

theorem getLsbD_fmtT (op : BitVec 8) (t : TrackIdx) (r : BitVec 20) (i : Nat) :
    (fmtT op t r).getLsbD i =
      if i < 20 then r.getLsbD i else if i < 24 then (idxBits t).getLsbD (i - 20) else op.getLsbD (i - 24) := by
  simp only [fmtT, getLsbD_header, getLsbD_pack, BitVec.getLsbD_append]
  grind

@[simp] theorem opcodeOf_header (op : BitVec 8) (body : BitVec 24) : opcodeOf (header op body) = op := by
  apply bits_eq
  intro i hi
  simp only [getLsbD_header]
  grind

@[simp] theorem bits_header (op : BitVec 8) (body : BitVec 24) : bits 0 24 (header op body) = body := by
  apply bits_eq
  intro i hi
  simp only [getLsbD_header]
  grind

@[simp] theorem opcodeOf_fmtT (op : BitVec 8) (t : TrackIdx) (r : BitVec 20) : opcodeOf (fmtT op t r) = op :=
  opcodeOf_header op _

@[simp] theorem toFin_idxBits (t : Fin 16) : (idxBits t).toFin = t := rfl

@[simp] theorem idxBits_toFin (x : BitVec 4) : idxBits x.toFin = x := rfl

@[simp] theorem trackOf_fmtT (op : BitVec 8) (t : TrackIdx) (r : BitVec 20) : trackOf (fmtT op t r) = t := by
  have h : bits 20 4 (fmtT op t r) = idxBits t := by
    apply bits_eq
    intro i hi
    simp only [getLsbD_fmtT]
    grind
  simp [trackOf, h]

@[simp] theorem bits_fmtT (op : BitVec 8) (t : TrackIdx) (r : BitVec 20) : bits 0 20 (fmtT op t r) = r := by
  apply bits_eq
  intro i hi
  simp only [getLsbD_fmtT]
  grind

@[simp] theorem opcodeOf_fmtV7 (op : BitVec 8) (t : TrackIdx) (r : BitVec 13) (v : BitVec 7) :
    opcodeOf (fmtV7 op t r v) = op := opcodeOf_fmtT op t _

@[simp] theorem trackOf_fmtV7 (op : BitVec 8) (t : TrackIdx) (r : BitVec 13) (v : BitVec 7) :
    trackOf (fmtV7 op t r v) = t := trackOf_fmtT op t _

@[simp] theorem rsv_fmtV7 (op : BitVec 8) (t : TrackIdx) (r : BitVec 13) (v : BitVec 7) :
    bits 7 13 (fmtV7 op t r v) = r := by
  apply bits_eq
  intro i hi
  simp only [fmtV7, getLsbD_fmtT, getLsbD_pack, BitVec.getLsbD_append]
  grind

@[simp] theorem imm_fmtV7 (op : BitVec 8) (t : TrackIdx) (r : BitVec 13) (v : BitVec 7) :
    bits 0 7 (fmtV7 op t r v) = v := by
  apply bits_eq
  intro i hi
  simp only [fmtV7, getLsbD_fmtT, getLsbD_pack, BitVec.getLsbD_append]
  grind

@[simp] theorem opcodeOf_fmtI8 (op : BitVec 8) (t : TrackIdx) (r : BitVec 12) (v : BitVec 8) :
    opcodeOf (fmtI8 op t r v) = op := opcodeOf_fmtT op t _

@[simp] theorem trackOf_fmtI8 (op : BitVec 8) (t : TrackIdx) (r : BitVec 12) (v : BitVec 8) :
    trackOf (fmtI8 op t r v) = t := trackOf_fmtT op t _

@[simp] theorem rsv_fmtI8 (op : BitVec 8) (t : TrackIdx) (r : BitVec 12) (v : BitVec 8) :
    bits 8 12 (fmtI8 op t r v) = r := by
  apply bits_eq
  intro i hi
  simp only [fmtI8, getLsbD_fmtT, getLsbD_pack, BitVec.getLsbD_append]
  grind

@[simp] theorem imm_fmtI8 (op : BitVec 8) (t : TrackIdx) (r : BitVec 12) (v : BitVec 8) :
    bits 0 8 (fmtI8 op t r v) = v := by
  apply bits_eq
  intro i hi
  simp only [fmtI8, getLsbD_fmtT, getLsbD_pack, BitVec.getLsbD_append]
  grind

@[simp] theorem opcodeOf_fmtE2 (op : BitVec 8) (t : TrackIdx) (r : BitVec 18) (v : BitVec 2) :
    opcodeOf (fmtE2 op t r v) = op := opcodeOf_fmtT op t _

@[simp] theorem trackOf_fmtE2 (op : BitVec 8) (t : TrackIdx) (r : BitVec 18) (v : BitVec 2) :
    trackOf (fmtE2 op t r v) = t := trackOf_fmtT op t _

@[simp] theorem rsv_fmtE2 (op : BitVec 8) (t : TrackIdx) (r : BitVec 18) (v : BitVec 2) :
    bits 2 18 (fmtE2 op t r v) = r := by
  apply bits_eq
  intro i hi
  simp only [fmtE2, getLsbD_fmtT, getLsbD_pack, BitVec.getLsbD_append]
  grind

@[simp] theorem imm_fmtE2 (op : BitVec 8) (t : TrackIdx) (r : BitVec 18) (v : BitVec 2) :
    bits 0 2 (fmtE2 op t r v) = v := by
  apply bits_eq
  intro i hi
  simp only [fmtE2, getLsbD_fmtT, getLsbD_pack, BitVec.getLsbD_append]
  grind

@[simp] theorem opcodeOf_fmtI16 (op : BitVec 8) (t : TrackIdx) (r : BitVec 4) (v : BitVec 16) :
    opcodeOf (fmtI16 op t r v) = op := opcodeOf_fmtT op t _

@[simp] theorem trackOf_fmtI16 (op : BitVec 8) (t : TrackIdx) (r : BitVec 4) (v : BitVec 16) :
    trackOf (fmtI16 op t r v) = t := trackOf_fmtT op t _

@[simp] theorem rsv_fmtI16 (op : BitVec 8) (t : TrackIdx) (r : BitVec 4) (v : BitVec 16) :
    bits 16 4 (fmtI16 op t r v) = r := by
  apply bits_eq
  intro i hi
  simp only [fmtI16, getLsbD_fmtT, getLsbD_pack, BitVec.getLsbD_append]
  grind

@[simp] theorem imm_fmtI16 (op : BitVec 8) (t : TrackIdx) (r : BitVec 4) (v : BitVec 16) :
    bits 0 16 (fmtI16 op t r v) = v := by
  apply bits_eq
  intro i hi
  simp only [fmtI16, getLsbD_fmtT, getLsbD_pack, BitVec.getLsbD_append]
  grind

@[simp] theorem opcodeOf_fmtB1 (op : BitVec 8) (t : TrackIdx) (r : BitVec 19) (b : Bool) :
    opcodeOf (fmtB1 op t r b) = op := opcodeOf_fmtT op t _

@[simp] theorem trackOf_fmtB1 (op : BitVec 8) (t : TrackIdx) (r : BitVec 19) (b : Bool) :
    trackOf (fmtB1 op t r b) = t := trackOf_fmtT op t _

@[simp] theorem rsv_fmtB1 (op : BitVec 8) (t : TrackIdx) (r : BitVec 19) (b : Bool) :
    bits 1 19 (fmtB1 op t r b) = r := by
  apply bits_eq
  intro i hi
  simp only [fmtB1, getLsbD_fmtT, getLsbD_pack, BitVec.getLsbD_append]
  grind

@[simp] theorem imm_fmtB1 (op : BitVec 8) (t : TrackIdx) (r : BitVec 19) (b : Bool) :
    (fmtB1 op t r b).getLsbD 0 = b := by
  simp only [fmtB1, getLsbD_fmtT, getLsbD_pack, BitVec.getLsbD_append]
  simp

/-- The fields of CH_STOP read back. -/
theorem chStop_fields (hi : BitVec 4) (c : ChanIdx) (lo : BitVec 16) :
    bits 20 4 (header 0x21#8 (pack (hi ++ idxBits c ++ lo) rfl)) = hi ∧
    channelOf (header 0x21#8 (pack (hi ++ idxBits c ++ lo) rfl)) = c ∧
    bits 0 16 (header 0x21#8 (pack (hi ++ idxBits c ++ lo) rfl)) = lo := by
  have h : bits 16 4 (header 0x21#8 (pack (hi ++ idxBits c ++ lo) rfl)) = idxBits c := by
    apply bits_eq
    intro i hi'
    simp only [getLsbD_header, getLsbD_pack, BitVec.getLsbD_append]
    grind
  refine ⟨?_, by rw [channelOf, h, toFin_idxBits], ?_⟩
  all_goals
    apply bits_eq
    intro i hi'
    simp only [getLsbD_header, getLsbD_pack, BitVec.getLsbD_append]
    grind

/-- The fields of PROCESS read back. -/
theorem process_fields (r : BitVec 22) (toRec toOut : Bool) :
    bits 2 22 (header 0x31#8 (pack (r ++ BitVec.ofBool toRec ++ BitVec.ofBool toOut) rfl)) = r ∧
    (header 0x31#8 (pack (r ++ BitVec.ofBool toRec ++ BitVec.ofBool toOut) rfl)).getLsbD 1 = toRec ∧
    (header 0x31#8 (pack (r ++ BitVec.ofBool toRec ++ BitVec.ofBool toOut) rfl)).getLsbD 0 = toOut := by
  refine ⟨?_, ?_, ?_⟩
  · apply bits_eq
    intro i hi
    simp only [getLsbD_header, getLsbD_pack, BitVec.getLsbD_append]
    grind
  all_goals
    simp only [getLsbD_header, getLsbD_pack, BitVec.getLsbD_append]
    simp

@[simp] theorem opcodeOf_noteWord0 (n : NoteFields) : opcodeOf (noteWord0 n) = 0x20#8 := opcodeOf_header _ _

/-- The fields of a NOTE read back. -/
theorem decodeNote_words (n : NoteFields) :
    decodeNote (noteWord0 n) n.dur (noteWord2 n) (noteWord3 n) (noteWord4 n) n.oscCfg = n := by
  have hT : bits 20 4 (noteWord0 n) = idxBits n.t := by
    apply bits_eq; intro i hi
    simp only [noteWord0, getLsbD_header, getLsbD_pack, BitVec.getLsbD_append]; grind
  have hA : (noteWord0 n).getLsbD 17 = n.autoSweep := by
    simp only [noteWord0, getLsbD_header, getLsbD_pack, BitVec.getLsbD_append]; simp
  have h_typ : bits 18 2 (noteWord0 n) = n.typ := by
    apply bits_eq; intro i hi
    simp only [noteWord0, getLsbD_header, getLsbD_pack, BitVec.getLsbD_append]; grind
  have h_rsvA : bits 15 2 (noteWord0 n) = n.rsvA := by
    apply bits_eq; intro i hi
    simp only [noteWord0, getLsbD_header, getLsbD_pack, BitVec.getLsbD_append]; grind
  have h_vel : bits 8 7 (noteWord0 n) = n.vel := by
    apply bits_eq; intro i hi
    simp only [noteWord0, getLsbD_header, getLsbD_pack, BitVec.getLsbD_append]; grind
  have h_rsvB : bits 7 1 (noteWord0 n) = n.rsvB := by
    apply bits_eq; intro i hi
    simp only [noteWord0, getLsbD_header, getLsbD_pack, BitVec.getLsbD_append]; grind
  have h_key : bits 0 7 (noteWord0 n) = n.key := by
    apply bits_eq; intro i hi
    simp only [noteWord0, getLsbD_header, getLsbD_pack, BitVec.getLsbD_append]; grind
  have h_baseTimer : bits 16 16 (noteWord2 n) = n.baseTimer := by
    apply bits_eq; intro i hi
    simp only [noteWord2, getLsbD_pack, BitVec.getLsbD_append]; grind
  have h_rsvC : bits 15 1 (noteWord2 n) = n.rsvC := by
    apply bits_eq; intro i hi
    simp only [noteWord2, getLsbD_pack, BitVec.getLsbD_append]; grind
  have h_baseKey : bits 8 7 (noteWord2 n) = n.baseKey := by
    apply bits_eq; intro i hi
    simp only [noteWord2, getLsbD_pack, BitVec.getLsbD_append]; grind
  have h_rsvD : bits 7 1 (noteWord2 n) = n.rsvD := by
    apply bits_eq; intro i hi
    simp only [noteWord2, getLsbD_pack, BitVec.getLsbD_append]; grind
  have h_startPan : bits 0 7 (noteWord2 n) = n.startPan := by
    apply bits_eq; intro i hi
    simp only [noteWord2, getLsbD_pack, BitVec.getLsbD_append]; grind
  have h_rsvE : bits 31 1 (noteWord3 n) = n.rsvE := by
    apply bits_eq; intro i hi
    simp only [noteWord3, getLsbD_pack, BitVec.getLsbD_append]; grind
  have h_instAttack : bits 24 7 (noteWord3 n) = n.instAttack := by
    apply bits_eq; intro i hi
    simp only [noteWord3, getLsbD_pack, BitVec.getLsbD_append]; grind
  have h_rsvF : bits 23 1 (noteWord3 n) = n.rsvF := by
    apply bits_eq; intro i hi
    simp only [noteWord3, getLsbD_pack, BitVec.getLsbD_append]; grind
  have h_instDecay : bits 16 7 (noteWord3 n) = n.instDecay := by
    apply bits_eq; intro i hi
    simp only [noteWord3, getLsbD_pack, BitVec.getLsbD_append]; grind
  have h_rsvG : bits 15 1 (noteWord3 n) = n.rsvG := by
    apply bits_eq; intro i hi
    simp only [noteWord3, getLsbD_pack, BitVec.getLsbD_append]; grind
  have h_instSustain : bits 8 7 (noteWord3 n) = n.instSustain := by
    apply bits_eq; intro i hi
    simp only [noteWord3, getLsbD_pack, BitVec.getLsbD_append]; grind
  have h_rsvH : bits 7 1 (noteWord3 n) = n.rsvH := by
    apply bits_eq; intro i hi
    simp only [noteWord3, getLsbD_pack, BitVec.getLsbD_append]; grind
  have h_instRelease : bits 0 7 (noteWord3 n) = n.instRelease := by
    apply bits_eq; intro i hi
    simp only [noteWord3, getLsbD_pack, BitVec.getLsbD_append]; grind
  have h_sweepPitch : bits 16 16 (noteWord4 n) = n.sweepPitch := by
    apply bits_eq; intro i hi
    simp only [noteWord4, getLsbD_pack, BitVec.getLsbD_append]; grind
  have h_sweepLen : bits 0 16 (noteWord4 n) = n.sweepLen := by
    apply bits_eq; intro i hi
    simp only [noteWord4, getLsbD_pack, BitVec.getLsbD_append]; grind
  simp only [decodeNote, trackOf, hT, hA, h_typ, h_rsvA, h_vel, h_rsvB, h_key, h_baseTimer, h_rsvC, h_baseKey, h_rsvD, h_startPan, h_rsvE, h_instAttack, h_rsvF, h_instDecay, h_rsvG, h_instSustain, h_rsvH, h_instRelease, h_sweepPitch, h_sweepLen, toFin_idxBits]

end Sys2Proof
end

