-- ==== Sys2Proof/Laws/Fade.lean ====
section
/-! SUPPORT. The path of the fade position (R104, R105, R108): over the 1920 microframes of a fade it stays
between +0.0 and 1.0. Inside a binade each step adds a constant to the pattern, so the two paths are a few long
pieces and a short start or end that is computed. -/

namespace Sys2Proof.Machine

theorem fadePath_succ (step p : Binary32) (k : Nat) : fadePath step p (k + 1) = f32Add (fadePath step p k) step :=
  Function.iterate_succ_apply' _ _ _

theorem fadePath_shift (step p : Binary32) (k : Nat) : fadePath step p (k + 1) = fadePath step (f32Add p step) k :=
  Function.iterate_succ_apply _ _ _

/-- The position is `q` after `n` microframes from `p`, and lies between +0.0 and 1.0 at each before. -/
def fadeRun (step q : Binary32) : Nat → Binary32 → Bool
  | 0, p => p == q
  | n + 1, p => decide (p.toNat ≤ 0x3F800000) && fadeRun step q n (f32Add p step)

theorem fadeRun_trans {step p q r : Binary32} {n m : Nat} (h : fadeRun step q n p = true)
    (h' : fadeRun step r m q = true) : fadeRun step r (n + m) p = true := by
  induction n generalizing p with
  | zero =>
    rw [beq_iff_eq.1 h, Nat.zero_add]
    exact h'
  | succ n ih =>
    rw [fadeRun, Bool.and_eq_true] at h
    rw [Nat.add_right_comm, fadeRun, h.1, ih h.2]
    rfl

theorem fadeRun_range {step p q : Binary32} {n : Nat} (h : fadeRun step q n p = true) (hq : q.toNat ≤ 0x3F800000) :
    ∀ k ≤ n, (fadePath step p k).toNat ≤ 0x3F800000 := by
  induction n generalizing p with
  | zero =>
    intro k hk
    rw [Nat.le_zero.1 hk]
    exact beq_iff_eq.1 h ▸ hq
  | succ n ih =>
    rw [fadeRun, Bool.and_eq_true] at h
    intro k hk
    cases k with
    | zero => exact of_decide_eq_true h.1
    | succ k => exact fadePath_shift step p k ▸ ih h.2 k (Nat.le_of_succ_le_succ hk)

/-- A sum whose exact value lies in the binade of spacing `2^k` and nearest to `t` steps of it. -/
theorem f32Add_binade {x s : Binary32} (hx : f32IsFinite x = true) (hs : f32IsFinite s = true) {k t n : Nat}
    (hn : f32Units x + f32Units s = (n : Int)) (lo : 2 ^ 23 * 2 ^ k ≤ n) (hi : n < 2 ^ 24 * 2 ^ k)
    (below : 2 * n < (2 * t + 1) * 2 ^ k) (above : 2 * t * 2 ^ k < 2 * n + 2 ^ k) (hk : k ≤ 125) :
    f32Add x s = f32Pattern false (k * 2 ^ 23 + t) := by
  have hp : 0 < 2 ^ k := by positivity
  have e : f32Add x s = f32Round false n 1 := by
    simp only [f32IsFinite, decide_eq_true_eq] at hx hs
    have h1 : f32IsNaN x = false := decide_eq_false (by omega)
    have h2 : f32IsNaN s = false := decide_eq_false (by omega)
    have h3 : f32IsInf x = false := decide_eq_false (by omega)
    have h4 : f32IsInf s = false := decide_eq_false (by omega)
    simp only [f32Add, h1, h2, h3, h4, hn]
    rw [if_neg (by simp), if_neg (by simp), if_neg (by simp), if_neg (by omega), decide_eq_false (by omega),
      Int.natAbs_natCast]
  obtain ⟨k', q, r, m, h1, h2, h3, h4, h5, h6⟩ := f32Round_steps false n 1 Nat.one_pos
  rw [Nat.one_mul] at h1 h2 h5
  obtain rfl : k' = k := by
    rcases Nat.lt_trichotomy k' k with h | h | h
    · have a : 2 ^ k' * (q + 1) ≤ 2 ^ k' * 2 ^ 24 := Nat.mul_le_mul_left _ h3
      have b : 2 ^ (k' + 1) ≤ 2 ^ k := Nat.pow_le_pow_right (by omega) h
      rw [Nat.mul_add] at a
      rw [Nat.pow_succ] at b
      omega
    · exact h
    · have a : 2 ^ k' * 2 ^ 23 ≤ 2 ^ k' * q := Nat.mul_le_mul_left _ (by omega)
      have b : 2 ^ (k + 1) ≤ 2 ^ k' := Nat.pow_le_pow_right (by omega) h
      rw [Nat.pow_succ] at b
      omega
  have hm : m = t := by
    have hm1 : 2 * (2 ^ k' * m) ≤ 2 * n + 2 ^ k' ∧ 2 * n ≤ 2 * (2 ^ k' * m) + 2 ^ k' := by
      rcases h5 with ⟨rfl, h⟩ | ⟨rfl, h⟩
      · omega
      · rw [Nat.mul_add]
        omega
    rcases Nat.lt_trichotomy m t with h | h | h
    · have a : 2 ^ k' * (m + 1) ≤ 2 ^ k' * t := Nat.mul_le_mul_left _ h
      rw [Nat.mul_add] at a
      rw [show 2 * t * 2 ^ k' = 2 * (2 ^ k' * t) by ring] at above
      omega
    · exact h
    · have a : 2 ^ k' * (t + 1) ≤ 2 ^ k' * m := Nat.mul_le_mul_left _ h
      rw [Nat.mul_add] at a
      rw [show (2 * t + 1) * 2 ^ k' = 2 * (2 ^ k' * t) + 2 ^ k' by ring] at below
      omega
  have ht : t ≤ 2 ^ 24 := by omega
  rw [e, h6, hm, Nat.min_eq_left (by omega)]

/-- A position of `m` steps of `2^k` units. -/
def binadePos (k m : Nat) : Binary32 := f32Pattern false (k * 2 ^ 23 + m)

theorem binadePos_toNat {k m : Nat} (hk : k ≤ 125) (hm : m ≤ 2 ^ 24) : (binadePos k m).toNat = k * 2 ^ 23 + m := by
  rw [binadePos, f32Pattern_toNat _ (by omega)]
  rfl

theorem binadePos_units {k m : Nat} (hk : k ≤ 125) (lo : 2 ^ 23 ≤ m) (hm : m ≤ 2 ^ 24) :
    f32Units (binadePos k m) = (m * 2 ^ k : Nat) := by
  rw [binadePos, f32Units_pattern _ (by omega), magUnits_split hm (.inr lo)]
  rfl

theorem binadePos_finite {k m : Nat} (hk : k ≤ 125) (hm : m ≤ 2 ^ 24) : f32IsFinite (binadePos k m) = true := by
  rw [binadePos, f32IsFinite, f32Mag_pattern _ (by omega)]
  exact decide_eq_true (by omega)

/-- A step of `S` units, nearest to `c` steps of the spacing, taken `j` times upward inside a binade. -/
theorem fadeRun_up {step : Binary32} {S k c : Nat} (hs : f32IsFinite step = true) (hS : f32Units step = (S : Int))
    (hk : k ≤ 125) (below : 2 * S < (2 * c + 1) * 2 ^ k) (above : 2 * c * 2 ^ k < 2 * S + 2 ^ k) :
    ∀ j m : Nat, 2 ^ 23 ≤ m → m + j * c < 2 ^ 24 →
      fadeRun step (binadePos k (m + j * c)) j (binadePos k m) = true := by
  intro j
  induction j with
  | zero =>
    intro m _ _
    rw [Nat.zero_mul]
    exact beq_self_eq_true _
  | succ j ih =>
    intro m lo hi
    rw [Nat.succ_mul] at hi ⊢
    have hp : 0 < 2 ^ k := by positivity
    have h : f32Add (binadePos k m) step = binadePos k (m + c) := by
      have a : (m + c + 1) * 2 ^ k ≤ 2 ^ 24 * 2 ^ k := Nat.mul_le_mul_right _ (by omega)
      have b : 2 ^ 23 * 2 ^ k ≤ m * 2 ^ k := Nat.mul_le_mul_right _ lo
      have e : (m + c + 1) * 2 ^ k = m * 2 ^ k + c * 2 ^ k + 2 ^ k := by ring
      refine f32Add_binade (n := m * 2 ^ k + S) (binadePos_finite hk (by omega)) hs
        (by rw [binadePos_units hk lo (by omega), hS]; rfl) ?_ ?_ ?_ ?_ hk
      all_goals ring_nf at *; omega
    rw [fadeRun, h, binadePos_toNat hk (by omega), decide_eq_true (by omega), Bool.true_and,
      show m + (j * c + c) = m + c + j * c by ring]
    exact ih (m + c) (by omega) (by omega)

/-- The same downward: the step is `-S` units. -/
theorem fadeRun_down {step : Binary32} {S k c : Nat} (hs : f32IsFinite step = true) (hS : f32Units step = -(S : Int))
    (hk : k ≤ 125) (h0 : 0 < S) (below : 2 * c * 2 ^ k < 2 * S + 2 ^ k) (above : 2 * S < (2 * c + 1) * 2 ^ k) :
    ∀ j m : Nat, m ≤ 2 ^ 24 → 2 ^ 23 + j * c < m →
      fadeRun step (binadePos k (m - j * c)) j (binadePos k m) = true := by
  intro j
  induction j with
  | zero =>
    intro m _ _
    rw [Nat.zero_mul]
    exact beq_self_eq_true _
  | succ j ih =>
    intro m hi lo
    rw [Nat.succ_mul] at lo ⊢
    have hp : 0 < 2 ^ k := by positivity
    obtain ⟨d, rfl⟩ : ∃ d, m = d + c := ⟨m - c, by omega⟩
    have h : f32Add (binadePos k (d + c)) step = binadePos k d := by
      have a : (2 ^ 23 + 1) * 2 ^ k ≤ d * 2 ^ k := Nat.mul_le_mul_right _ (by omega)
      have b : (d + c) * 2 ^ k ≤ 2 ^ 24 * 2 ^ k := Nat.mul_le_mul_right _ hi
      have e : (d + c) * 2 ^ k = d * 2 ^ k + c * 2 ^ k := by ring
      have f : (2 ^ 23 + 1) * 2 ^ k = 2 ^ 23 * 2 ^ k + 2 ^ k := by ring
      have g : 2 * c * 2 ^ k = 2 * (c * 2 ^ k) := by ring
      have g' : (2 * c + 1) * 2 ^ k = 2 * (c * 2 ^ k) + 2 ^ k := by ring
      rw [g] at below
      rw [g'] at above
      refine f32Add_binade (n := (d + c) * 2 ^ k - S) (binadePos_finite hk hi) hs
        (by rw [binadePos_units hk (by omega) hi, hS]; omega) ?_ ?_ ?_ ?_ hk
      · omega
      · omega
      · rw [show (2 * d + 1) * 2 ^ k = 2 * (d * 2 ^ k) + 2 ^ k by ring]
        omega
      · rw [show 2 * d * 2 ^ k = 2 * (d * 2 ^ k) by ring]
        omega
    rw [fadeRun, h, binadePos_toNat hk (by omega), decide_eq_true (by omega), Bool.true_and,
      show d + c - (j * c + c) = d - j * c by omega]
    exact ih d (by omega) (by omega)

theorem fadeIn_piece0 : fadeRun 0x3A088889#32 0x3D81110C#32 121 0x00000000#32 = true := by decide +kernel

theorem fadeIn_piece1 : fadeRun 0x3A088889#32 0x3DFFFFF3#32 119 0x3D81110C#32 = true :=
  fadeRun_up (S := 0x888889 * 2 ^ 115) (k := 122) (c := 69905) (by decide) (by decide) (by decide) (by decide)
    (by decide) 119 0x81110C (by decide) (by decide)

theorem fadeIn_piece2 : fadeRun 0x3A088889#32 0x3E008882#32 1 0x3DFFFFF3#32 = true := by decide +kernel

theorem fadeIn_piece3 : fadeRun 0x3A088889#32 0x3E7F77E0#32 238 0x3E008882#32 = true :=
  fadeRun_up (S := 0x888889 * 2 ^ 115) (k := 123) (c := 34953) (by decide) (by decide) (by decide) (by decide)
    (by decide) 238 0x808882 (by decide) (by decide)

theorem fadeIn_piece4 : fadeRun 0x3A088889#32 0x3E800034#32 1 0x3E7F77E0#32 = true := by decide +kernel

theorem fadeIn_piece5 : fadeRun 0x3A088889#32 0x3EFFFFB4#32 480 0x3E800034#32 = true :=
  fadeRun_up (S := 0x888889 * 2 ^ 115) (k := 124) (c := 17476) (by decide) (by decide) (by decide) (by decide)
    (by decide) 480 0x800034 (by decide) (by decide)

theorem fadeIn_piece6 : fadeRun 0x3A088889#32 0x3F0021FC#32 1 0x3EFFFFB4#32 = true := by decide +kernel

theorem fadeIn_piece7 : fadeRun 0x3A088889#32 0x3F7FFF5A#32 959 0x3F0021FC#32 = true :=
  fadeRun_up (S := 0x888889 * 2 ^ 115) (k := 125) (c := 8738) (by decide) (by decide) (by decide) (by decide)
    (by decide) 959 0x8021FC (by decide) (by decide)

theorem fadeOut_piece0 : fadeRun 0xBA088889#32 0x3F000080#32 960 0x3F800000#32 = true :=
  fadeRun_down (S := 0x888889 * 2 ^ 115) (k := 125) (c := 8738) (by decide) (by decide) (by decide) (by decide) (by decide)
    (by decide) 960 0x1000000 (by decide) (by decide)

theorem fadeOut_piece1 : fadeRun 0xBA088889#32 0x3EFFBCBC#32 1 0x3F000080#32 = true := by decide +kernel

theorem fadeOut_piece2 : fadeRun 0xBA088889#32 0x3E800180#32 479 0x3EFFBCBC#32 = true :=
  fadeRun_down (S := 0x888889 * 2 ^ 115) (k := 124) (c := 17476) (by decide) (by decide) (by decide) (by decide) (by decide)
    (by decide) 479 0xFFBCBC (by decide) (by decide)

theorem fadeOut_piece3 : fadeRun 0xBA088889#32 0x3E7F7A77#32 1 0x3E800180#32 = true := by decide +kernel

theorem fadeOut_piece4 : fadeRun 0xBA088889#32 0x3E000290#32 239 0x3E7F7A77#32 = true :=
  fadeRun_down (S := 0x888889 * 2 ^ 115) (k := 123) (c := 34953) (by decide) (by decide) (by decide) (by decide) (by decide)
    (by decide) 239 0xFF7A77 (by decide) (by decide)

theorem fadeOut_piece5 : fadeRun 0xBA088889#32 0x3DFEF40F#32 1 0x3E000290#32 = true := by decide +kernel

theorem fadeOut_piece6 : fadeRun 0xBA088889#32 0x3D800528#32 119 0x3DFEF40F#32 = true :=
  fadeRun_down (S := 0x888889 * 2 ^ 115) (k := 122) (c := 69905) (by decide) (by decide) (by decide) (by decide) (by decide)
    (by decide) 119 0xFEF40F (by decide) (by decide)

theorem fadeOut_piece7 : fadeRun 0xBA088889#32 0x3725A580#32 120 0x3D800528#32 = true := by decide +kernel

/-- R104, R105: a fade-in's position stays between +0.0 and 1.0. -/
theorem fadePath_in_range (k : Nat) (h : k ≤ FADE_LEN) :
    (fadePath 0x3A088889#32 0x00000000#32 k).toNat ≤ 0x3F800000 := by
  have h1 := fadeRun_trans fadeIn_piece0 fadeIn_piece1
  have h2 := fadeRun_trans h1 fadeIn_piece2
  have h3 := fadeRun_trans h2 fadeIn_piece3
  have h4 := fadeRun_trans h3 fadeIn_piece4
  have h5 := fadeRun_trans h4 fadeIn_piece5
  have h6 := fadeRun_trans h5 fadeIn_piece6
  have h7 := fadeRun_trans h6 fadeIn_piece7
  exact fadeRun_range h7 (by decide) k (Nat.le_trans h (by decide))

/-- R104, R105: a fade-out's position stays between +0.0 and 1.0. -/
theorem fadePath_out_range (k : Nat) (h : k ≤ FADE_LEN) :
    (fadePath 0xBA088889#32 0x3F800000#32 k).toNat ≤ 0x3F800000 := by
  have h1 := fadeRun_trans fadeOut_piece0 fadeOut_piece1
  have h2 := fadeRun_trans h1 fadeOut_piece2
  have h3 := fadeRun_trans h2 fadeOut_piece3
  have h4 := fadeRun_trans h3 fadeOut_piece4
  have h5 := fadeRun_trans h4 fadeOut_piece5
  have h6 := fadeRun_trans h5 fadeOut_piece6
  have h7 := fadeRun_trans h6 fadeOut_piece7
  exact fadeRun_range h7 (by decide) k (Nat.le_trans h (by decide))

end Sys2Proof.Machine
end

