-- ==== Sys2Proof/Laws/Ops.lean ====
section
/-! SUPPORT. What each shared operation of the commands can do: its frame, field by field, and one lemma for
what it writes. Later proofs cite these and unfold no operation. -/

namespace Sys2Proof.Machine

variable (P : Params) (s : State)

/-! ### Frames -/

@[simp] theorem trackInit_mix (t : TrackIdx) : (trackInit t s).mix = s.mix := by simp [trackInit]
@[simp] theorem trackInit_st (t : TrackIdx) : (trackInit t s).st = s.st := by simp [trackInit]
@[simp] theorem trackInit_audioQ (t : TrackIdx) : (trackInit t s).audioQ = s.audioQ := by simp [trackInit]
@[simp] theorem trackInit_recQ (t : TrackIdx) : (trackInit t s).recQ = s.recQ := by simp [trackInit]
@[simp] theorem trackInit_stream (t : TrackIdx) : (trackInit t s).stream = s.stream := by simp [trackInit]
@[simp] theorem trackInit_pos (t : TrackIdx) : (trackInit t s).pos = s.pos := by simp [trackInit]
@[simp] theorem trackInit_host (t : TrackIdx) : (trackInit t s).host = s.host := by simp [trackInit]
@[simp] theorem trackInit_rx (t : TrackIdx) : (trackInit t s).rx = s.rx := by simp [trackInit]

@[simp] theorem trackTick_mix (t : TrackIdx) : (trackTick t s).mix = s.mix := by
  unfold trackTick; split <;> simp
@[simp] theorem trackTick_st (t : TrackIdx) : (trackTick t s).st = s.st := by
  unfold trackTick; split <;> simp
@[simp] theorem trackTick_audioQ (t : TrackIdx) : (trackTick t s).audioQ = s.audioQ := by
  unfold trackTick; split <;> simp
@[simp] theorem trackTick_recQ (t : TrackIdx) : (trackTick t s).recQ = s.recQ := by
  unfold trackTick; split <;> simp
@[simp] theorem trackTick_stream (t : TrackIdx) : (trackTick t s).stream = s.stream := by
  unfold trackTick; split <;> simp
@[simp] theorem trackTick_pos (t : TrackIdx) : (trackTick t s).pos = s.pos := by
  unfold trackTick; split <;> simp
@[simp] theorem trackTick_host (t : TrackIdx) : (trackTick t s).host = s.host := by
  unfold trackTick; split <;> simp
@[simp] theorem trackTick_rx (t : TrackIdx) : (trackTick t s).rx = s.rx := by
  unfold trackTick; split <;> simp

@[simp] theorem noteDrop_channels (t : TrackIdx) : (noteDrop t s).channels = s.channels := by simp [noteDrop]
@[simp] theorem noteDrop_tracks (t : TrackIdx) : (noteDrop t s).tracks = s.tracks := by simp [noteDrop]
@[simp] theorem noteDrop_mix (t : TrackIdx) : (noteDrop t s).mix = s.mix := by simp [noteDrop]
@[simp] theorem noteDrop_audioQ (t : TrackIdx) : (noteDrop t s).audioQ = s.audioQ := by simp [noteDrop]
@[simp] theorem noteDrop_recQ (t : TrackIdx) : (noteDrop t s).recQ = s.recQ := by simp [noteDrop]
@[simp] theorem noteDrop_stream (t : TrackIdx) : (noteDrop t s).stream = s.stream := by simp [noteDrop]
@[simp] theorem noteDrop_pos (t : TrackIdx) : (noteDrop t s).pos = s.pos := by simp [noteDrop]
@[simp] theorem noteDrop_host (t : TrackIdx) : (noteDrop t s).host = s.host := by simp [noteDrop]
@[simp] theorem noteDrop_rx (t : TrackIdx) : (noteDrop t s).rx = s.rx := by simp [noteDrop]

@[simp] theorem noteTake_tracks (n : NoteFields) (ty : InstrType) (c : ChanIdx) : (noteTake P n ty c s).tracks = s.tracks := by
  simp only [noteTake]; split <;> simp
@[simp] theorem noteTake_mix (n : NoteFields) (ty : InstrType) (c : ChanIdx) : (noteTake P n ty c s).mix = s.mix := by
  simp only [noteTake]; split <;> simp
@[simp] theorem noteTake_audioQ (n : NoteFields) (ty : InstrType) (c : ChanIdx) : (noteTake P n ty c s).audioQ = s.audioQ := by
  simp only [noteTake]; split <;> simp
@[simp] theorem noteTake_recQ (n : NoteFields) (ty : InstrType) (c : ChanIdx) : (noteTake P n ty c s).recQ = s.recQ := by
  simp only [noteTake]; split <;> simp
@[simp] theorem noteTake_stream (n : NoteFields) (ty : InstrType) (c : ChanIdx) : (noteTake P n ty c s).stream = s.stream := by
  simp only [noteTake]; split <;> simp
@[simp] theorem noteTake_pos (n : NoteFields) (ty : InstrType) (c : ChanIdx) : (noteTake P n ty c s).pos = s.pos := by
  simp only [noteTake]; split <;> simp
@[simp] theorem noteTake_host (n : NoteFields) (ty : InstrType) (c : ChanIdx) : (noteTake P n ty c s).host = s.host := by
  simp only [noteTake]; split <;> simp
@[simp] theorem noteTake_rx (n : NoteFields) (ty : InstrType) (c : ChanIdx) : (noteTake P n ty c s).rx = s.rx := by
  simp only [noteTake]; split <;> simp


@[simp] theorem chStopEffect_tracks (c : ChanIdx) : (chStopEffect c s).tracks = s.tracks := by
  unfold chStopEffect; split <;> simp
@[simp] theorem chStopEffect_mix (c : ChanIdx) : (chStopEffect c s).mix = s.mix := by
  unfold chStopEffect; split <;> simp
@[simp] theorem chStopEffect_st (c : ChanIdx) : (chStopEffect c s).st = s.st := by
  unfold chStopEffect; split <;> simp
@[simp] theorem chStopEffect_audioQ (c : ChanIdx) : (chStopEffect c s).audioQ = s.audioQ := by
  unfold chStopEffect; split <;> simp
@[simp] theorem chStopEffect_recQ (c : ChanIdx) : (chStopEffect c s).recQ = s.recQ := by
  unfold chStopEffect; split <;> simp
@[simp] theorem chStopEffect_stream (c : ChanIdx) : (chStopEffect c s).stream = s.stream := by
  unfold chStopEffect; split <;> simp
@[simp] theorem chStopEffect_pos (c : ChanIdx) : (chStopEffect c s).pos = s.pos := by
  unfold chStopEffect; split <;> simp
@[simp] theorem chStopEffect_host (c : ChanIdx) : (chStopEffect c s).host = s.host := by
  unfold chStopEffect; split <;> simp
@[simp] theorem chStopEffect_rx (c : ChanIdx) : (chStopEffect c s).rx = s.rx := by
  unfold chStopEffect; split <;> simp

@[simp] theorem chTickAll_tracks : (chTickAll P s).tracks = s.tracks := by simp [chTickAll]
@[simp] theorem chTickAll_mix : (chTickAll P s).mix = s.mix := by simp [chTickAll]
@[simp] theorem chTickAll_st : (chTickAll P s).st = s.st := by simp [chTickAll]
@[simp] theorem chTickAll_audioQ : (chTickAll P s).audioQ = s.audioQ := by simp [chTickAll]
@[simp] theorem chTickAll_recQ : (chTickAll P s).recQ = s.recQ := by simp [chTickAll]
@[simp] theorem chTickAll_stream : (chTickAll P s).stream = s.stream := by simp [chTickAll]
@[simp] theorem chTickAll_pos : (chTickAll P s).pos = s.pos := by simp [chTickAll]
@[simp] theorem chTickAll_host : (chTickAll P s).host = s.host := by simp [chTickAll]
@[simp] theorem chTickAll_rx : (chTickAll P s).rx = s.rx := by simp [chTickAll]

@[simp] theorem emulateBuffer_tracks : (emulateBuffer P s).tracks = s.tracks := rfl
@[simp] theorem emulateBuffer_mix : (emulateBuffer P s).mix = s.mix := rfl
@[simp] theorem emulateBuffer_st : (emulateBuffer P s).st = s.st := rfl
@[simp] theorem emulateBuffer_audioQ : (emulateBuffer P s).audioQ = s.audioQ := rfl
@[simp] theorem emulateBuffer_recQ : (emulateBuffer P s).recQ = s.recQ := rfl
@[simp] theorem emulateBuffer_stream : (emulateBuffer P s).stream = s.stream := rfl
@[simp] theorem emulateBuffer_pos : (emulateBuffer P s).pos = s.pos := rfl
@[simp] theorem emulateBuffer_host : (emulateBuffer P s).host = s.host := rfl
@[simp] theorem emulateBuffer_rx : (emulateBuffer P s).rx = s.rx := rfl

@[simp] theorem processBuffer_tracks (toRec toOut : Bool) : (processBuffer P toRec toOut s).tracks = s.tracks := rfl
@[simp] theorem processBuffer_st (toRec toOut : Bool) : (processBuffer P toRec toOut s).st = s.st := rfl
@[simp] theorem processBuffer_stream (toRec toOut : Bool) : (processBuffer P toRec toOut s).stream = s.stream := rfl
@[simp] theorem processBuffer_pos (toRec toOut : Bool) : (processBuffer P toRec toOut s).pos = s.pos := rfl
@[simp] theorem processBuffer_host (toRec toOut : Bool) : (processBuffer P toRec toOut s).host = s.host := rfl
@[simp] theorem processBuffer_rx (toRec toOut : Bool) : (processBuffer P toRec toOut s).rx = s.rx := rfl

/-! ### What they write -/

theorem trackInit_ch (t : TrackIdx) (c : ChanIdx) : (trackInit t s).ch c = initChannel t (s.ch c) := by
  rw [trackInit, State.mapCh_ch, State.setTrk_ch]

theorem trackInit_trk (t u : TrackIdx) : (trackInit t s).trk u = if t = u then Track.defaults else s.trk u := by
  rw [trackInit, State.mapCh_trk, State.setTrk_trk]

/-- R79: a tick of track `t` changes a channel the way `tickChannel` says, owned channels or not. -/
theorem trackTick_ch (t : TrackIdx) (c : ChanIdx) : (trackTick t s).ch c = tickChannel t (s.ch c) := by
  unfold trackTick
  split
  · rw [State.modTrk_ch, State.mapCh_ch]
  · rename_i h
    rw [State.modTrk_ch, tickChannel, if_neg ((s.owned_eq_nil t).1 (not_not.1 h) c)]

/-- R79: the LFO of the ticked track runs while the track owns a channel and is idle otherwise. -/
theorem trackTick_trk (t u : TrackIdx) : (trackTick t s).trk u =
    if t = u then (if s.owned t ≠ [] then tickLfo (s.trk t) else idleLfo (s.trk t)) else s.trk u := by
  unfold trackTick
  split <;> simp [State.modTrk_trk]

@[simp] theorem noteDrop_ch (t : TrackIdx) (c : ChanIdx) : (noteDrop t s).ch c = s.ch c := rfl

@[simp] theorem noteDrop_st (t : TrackIdx) :
    (noteDrop t s).st = { s.st with drop := true, lastNote := lastNoteDropped t } := rfl

/-- R98: the channel given to a NOTE is written whole, whatever it held; no other channel changes. -/
theorem noteTake_ch (n : NoteFields) (ty : InstrType) (c d : ChanIdx) : (noteTake P n ty c s).ch d =
    if c = d then startedChannel P n ty (s.trk n.t) else s.ch d := by
  simp only [noteTake]
  split
  · rw [State.setLastNote_ch, State.setCh_ch]
    split
    · rfl
    · rw [State.stopCh_ch_other s (Ne.symm ‹_›)]
  · rw [State.setLastNote_ch, State.setCh_ch]

@[simp] theorem noteTake_st (n : NoteFields) (ty : InstrType) (c : ChanIdx) : (noteTake P n ty c s).st =
    { s.st with lastNote := lastNoteTaken n.t c (s.ch c).owner } := by
  simp only [noteTake]
  split <;> simp

/-- R98: everything a NOTE can do after its reserved-bit check. -/
theorem noteStart_cases (n : NoteFields) :
    (n.typ = 3#2 ∧ noteStart P n s = noteDrop n.t s.raiseRsv) ∨
    (∃ ty, instrTypeCode ty = n.typ ∧ arbitrate P s ty n.t = none ∧ noteStart P n s = noteDrop n.t s) ∨
    (∃ ty c, instrTypeCode ty = n.typ ∧ arbitrate P s ty n.t = some c ∧
      noteStart P n s = noteTake P n ty c s) := by
  have code : ∀ k : BitVec 2, (instrTypeOf k = none → k = 3#2) ∧
      (∀ ty, instrTypeOf k = some ty → instrTypeCode ty = k) := by
    intro k
    constructor
    · revert k; decide
    · intro ty; revert k; cases ty <;> decide
  unfold noteStart
  cases ht : instrTypeOf n.typ with
  | none => exact .inl ⟨(code _).1 ht, rfl⟩
  | some ty =>
    cases ha : arbitrate P s ty n.t with
    | none => exact .inr (.inl ⟨ty, (code _).2 ty ht, ha, by simp [ha]⟩)
    | some c => exact .inr (.inr ⟨ty, c, (code _).2 ty ht, ha, by simp [ha]⟩)

@[simp] theorem noteStart_tracks (n : NoteFields) : (noteStart P n s).tracks = s.tracks := by
  rcases noteStart_cases P s n with ⟨_, h⟩ | ⟨_, _, _, h⟩ | ⟨_, _, _, _, h⟩ <;> rw [h] <;> simp

@[simp] theorem noteStart_mix (n : NoteFields) : (noteStart P n s).mix = s.mix := by
  rcases noteStart_cases P s n with ⟨_, h⟩ | ⟨_, _, _, h⟩ | ⟨_, _, _, _, h⟩ <;> rw [h] <;> simp

@[simp] theorem noteStart_audioQ (n : NoteFields) : (noteStart P n s).audioQ = s.audioQ := by
  rcases noteStart_cases P s n with ⟨_, h⟩ | ⟨_, _, _, h⟩ | ⟨_, _, _, _, h⟩ <;> rw [h] <;> simp

@[simp] theorem noteStart_recQ (n : NoteFields) : (noteStart P n s).recQ = s.recQ := by
  rcases noteStart_cases P s n with ⟨_, h⟩ | ⟨_, _, _, h⟩ | ⟨_, _, _, _, h⟩ <;> rw [h] <;> simp

@[simp] theorem noteStart_stream (n : NoteFields) : (noteStart P n s).stream = s.stream := by
  rcases noteStart_cases P s n with ⟨_, h⟩ | ⟨_, _, _, h⟩ | ⟨_, _, _, _, h⟩ <;> rw [h] <;> simp

@[simp] theorem noteStart_pos (n : NoteFields) : (noteStart P n s).pos = s.pos := by
  rcases noteStart_cases P s n with ⟨_, h⟩ | ⟨_, _, _, h⟩ | ⟨_, _, _, _, h⟩ <;> rw [h] <;> simp

@[simp] theorem noteStart_host (n : NoteFields) : (noteStart P n s).host = s.host := by
  rcases noteStart_cases P s n with ⟨_, h⟩ | ⟨_, _, _, h⟩ | ⟨_, _, _, _, h⟩ <;> rw [h] <;> simp

@[simp] theorem noteStart_rx (n : NoteFields) : (noteStart P n s).rx = s.rx := by
  rcases noteStart_cases P s n with ⟨_, h⟩ | ⟨_, _, _, h⟩ | ⟨_, _, _, _, h⟩ <;> rw [h] <;> simp

/-- R93: CH_STOP stops the one channel; on a free channel, whose volume it does not touch, it does nothing. -/
theorem chStopEffect_ch (c d : ChanIdx) : (chStopEffect c s).ch d =
    if c = d ∧ (s.ch c).owner ≠ none then (s.ch c).stop else s.ch d := by
  unfold chStopEffect
  by_cases h : (s.ch c).owner ≠ none
  · rw [if_pos h, State.stopCh, State.setCh_ch]
    simp [h]
  · rw [if_neg h, if_neg fun hc => h hc.2]

theorem chTickAll_ch (c : ChanIdx) : (chTickAll P s).ch c = chTickOne P s.tracks (s.ch c) := by
  rw [chTickAll, State.mapCh_ch]

/-- R113, R114: the frame loop leaves the channels as that many frames of EMULATE do. -/
theorem renderFrames_channels (mute : Bank Bool) (st : Binary32) (n : Nat) (level : Binary32)
    (chs : Bank Channel) : (renderFrames P mute st n level chs).2 = oscAdvanceN P n chs := by
  induction n generalizing level chs with
  | zero => rfl
  | succ n ih => exact ih _ _

/-- R39, R30: a buffer is four bytes a frame. -/
theorem renderFrames_length (mute : Bank Bool) (st : Binary32) (n : Nat) (level : Binary32)
    (chs : Bank Channel) : (renderFrames P mute st n level chs).1.length = 4 * n := by
  induction n generalizing level chs with
  | zero => rfl
  | succ n ih =>
    simp only [renderFrames, frameBytes, List.length_append, List.length_cons, List.length_nil, ih]
    omega

@[simp] theorem processBuffer_channels (toRec toOut : Bool) :
    (processBuffer P toRec toOut s).channels = oscAdvanceN P P.spb s.channels :=
  renderFrames_channels P _ _ _ _ _

@[simp] theorem processBuffer_mix (toRec toOut : Bool) :
    (processBuffer P toRec toOut s).mix = (fadeSetup P s.mix).2 := rfl

@[simp] theorem processBuffer_audioQ (toRec toOut : Bool) :
    (processBuffer P toRec toOut s).audioQ = emitIf toOut (renderBuffer P s).1 s.audioQ := rfl

@[simp] theorem processBuffer_recQ (toRec toOut : Bool) :
    (processBuffer P toRec toOut s).recQ = emitIf toRec (renderBuffer P s).1 s.recQ := rfl

@[simp] theorem emulateBuffer_channels :
    (emulateBuffer P s).channels = oscAdvanceN P P.spb s.channels := rfl

/-- One frame advances each channel's oscillator alone, and no oscillator of a free channel. -/
theorem oscAdvanceAll_at (chs : Bank Channel) (c : ChanIdx) :
    (oscAdvanceAll P chs)[c.val] = oscAdvance P chs[c.val] := getElem_bankMap _ _ c

/-- R114: frames change nothing of a channel but its oscillator state. -/
theorem oscAdvanceN_at (n : Nat) (chs : Bank Channel) (c : ChanIdx) :
    ∃ q, (oscAdvanceN P n chs)[c.val] = { chs[c.val] with oscState := q } := by
  induction n generalizing chs with
  | zero => exact ⟨_, rfl⟩
  | succ n ih =>
    obtain ⟨q, h⟩ := ih (oscAdvanceAll P chs)
    refine ⟨q, ?_⟩
    rw [oscAdvanceN, h, oscAdvanceAll_at, oscAdvance]
    split <;> rfl

/-- R114: frames leave a free channel alone. -/
theorem oscAdvanceN_free (n : Nat) (chs : Bank Channel) (c : ChanIdx) (h : chs[c.val].owner = none) :
    (oscAdvanceN P n chs)[c.val] = chs[c.val] := by
  induction n generalizing chs with
  | zero => rfl
  | succ n ih =>
    have hf : (oscAdvanceAll P chs)[c.val] = chs[c.val] := by
      rw [oscAdvanceAll_at, oscAdvance, if_pos h]
    rw [oscAdvanceN, ih _ (by rw [hf]; exact h), hf]

end Sys2Proof.Machine
end

