-- ==== Sys2Proof/Laws/PerInstr.lean ====
section
/-! SUPPORT. Per-command lemmas: decoding the words of a command gives the command back. -/

namespace Sys2Proof

/-- A one-word command decodes by its word. -/
theorem decode_oneWord {w : Word} {i : Instr} (rest : List Word) (h20 : opcodeOf w ≠ 0x20#8)
    (h43 : opcodeOf w ≠ 0x43#8) (h : decodeOneWord w = some i) : decode (w :: rest) = .command i rest := by
  simp only [decode, if_neg h20, if_neg h43, h]

end Sys2Proof

namespace Sys2Proof.Laws.RoundTrip

/-- Decoding what the encoder writes gives the command and leaves the words after it. -/
def Statement (i : Instr) : Prop := ∀ rest : List Word, decode (encode i ++ rest) = .command i rest

theorem nop (rsv : BitVec 24) : Statement (.nop rsv) := by
  intro rest
  apply decode_oneWord
  · rw [opcodeOf_header]; decide
  · rw [opcodeOf_header]; decide
  · simp only [decodeOneWord, opcodeOf_header, bits_header]

theorem trkInit (t : TrackIdx) (rsv : BitVec 20) : Statement (.trkInit t rsv) := by
  intro rest
  apply decode_oneWord
  · rw [opcodeOf_fmtT]; decide
  · rw [opcodeOf_fmtT]; decide
  · simp only [decodeOneWord, opcodeOf_fmtT, trackOf_fmtT, bits_fmtT]

theorem trkVolume (t : TrackIdx) (rsv : BitVec 13) (v : BitVec 7) : Statement (.trkVolume t rsv v) := by
  intro rest
  apply decode_oneWord
  · rw [opcodeOf_fmtV7]; decide
  · rw [opcodeOf_fmtV7]; decide
  · simp only [decodeOneWord, opcodeOf_fmtV7, trackOf_fmtV7, rsv_fmtV7, imm_fmtV7]

theorem trkExpression (t : TrackIdx) (rsv : BitVec 13) (v : BitVec 7) : Statement (.trkExpression t rsv v) := by
  intro rest
  apply decode_oneWord
  · rw [opcodeOf_fmtV7]; decide
  · rw [opcodeOf_fmtV7]; decide
  · simp only [decodeOneWord, opcodeOf_fmtV7, trackOf_fmtV7, rsv_fmtV7, imm_fmtV7]

theorem trkPriority (t : TrackIdx) (rsv : BitVec 12) (v : BitVec 8) : Statement (.trkPriority t rsv v) := by
  intro rest
  apply decode_oneWord
  · rw [opcodeOf_fmtI8]; decide
  · rw [opcodeOf_fmtI8]; decide
  · simp only [decodeOneWord, opcodeOf_fmtI8, trackOf_fmtI8, rsv_fmtI8, imm_fmtI8]

theorem trkPan (t : TrackIdx) (rsv : BitVec 13) (v : BitVec 7) : Statement (.trkPan t rsv v) := by
  intro rest
  apply decode_oneWord
  · rw [opcodeOf_fmtV7]; decide
  · rw [opcodeOf_fmtV7]; decide
  · simp only [decodeOneWord, opcodeOf_fmtV7, trackOf_fmtV7, rsv_fmtV7, imm_fmtV7]

theorem trkTranspose (t : TrackIdx) (rsv : BitVec 12) (v : BitVec 8) : Statement (.trkTranspose t rsv v) := by
  intro rest
  apply decode_oneWord
  · rw [opcodeOf_fmtI8]; decide
  · rw [opcodeOf_fmtI8]; decide
  · simp only [decodeOneWord, opcodeOf_fmtI8, trackOf_fmtI8, rsv_fmtI8, imm_fmtI8]

theorem trkPitchbend (t : TrackIdx) (rsv : BitVec 12) (v : BitVec 8) : Statement (.trkPitchbend t rsv v) := by
  intro rest
  apply decode_oneWord
  · rw [opcodeOf_fmtI8]; decide
  · rw [opcodeOf_fmtI8]; decide
  · simp only [decodeOneWord, opcodeOf_fmtI8, trackOf_fmtI8, rsv_fmtI8, imm_fmtI8]

theorem trkBendrange (t : TrackIdx) (rsv : BitVec 12) (v : BitVec 8) : Statement (.trkBendrange t rsv v) := by
  intro rest
  apply decode_oneWord
  · rw [opcodeOf_fmtI8]; decide
  · rw [opcodeOf_fmtI8]; decide
  · simp only [decodeOneWord, opcodeOf_fmtI8, trackOf_fmtI8, rsv_fmtI8, imm_fmtI8]

theorem trkLfotype (t : TrackIdx) (rsv : BitVec 18) (v : BitVec 2) : Statement (.trkLfotype t rsv v) := by
  intro rest
  apply decode_oneWord
  · rw [opcodeOf_fmtE2]; decide
  · rw [opcodeOf_fmtE2]; decide
  · simp only [decodeOneWord, opcodeOf_fmtE2, trackOf_fmtE2, rsv_fmtE2, imm_fmtE2]

theorem trkLfodepth (t : TrackIdx) (rsv : BitVec 12) (v : BitVec 8) : Statement (.trkLfodepth t rsv v) := by
  intro rest
  apply decode_oneWord
  · rw [opcodeOf_fmtI8]; decide
  · rw [opcodeOf_fmtI8]; decide
  · simp only [decodeOneWord, opcodeOf_fmtI8, trackOf_fmtI8, rsv_fmtI8, imm_fmtI8]

theorem trkLfospeed (t : TrackIdx) (rsv : BitVec 12) (v : BitVec 8) : Statement (.trkLfospeed t rsv v) := by
  intro rest
  apply decode_oneWord
  · rw [opcodeOf_fmtI8]; decide
  · rw [opcodeOf_fmtI8]; decide
  · simp only [decodeOneWord, opcodeOf_fmtI8, trackOf_fmtI8, rsv_fmtI8, imm_fmtI8]

theorem trkLforange (t : TrackIdx) (rsv : BitVec 12) (v : BitVec 8) : Statement (.trkLforange t rsv v) := by
  intro rest
  apply decode_oneWord
  · rw [opcodeOf_fmtI8]; decide
  · rw [opcodeOf_fmtI8]; decide
  · simp only [decodeOneWord, opcodeOf_fmtI8, trackOf_fmtI8, rsv_fmtI8, imm_fmtI8]

theorem trkLfodelay (t : TrackIdx) (rsv : BitVec 4) (v : BitVec 16) : Statement (.trkLfodelay t rsv v) := by
  intro rest
  apply decode_oneWord
  · rw [opcodeOf_fmtI16]; decide
  · rw [opcodeOf_fmtI16]; decide
  · simp only [decodeOneWord, opcodeOf_fmtI16, trackOf_fmtI16, rsv_fmtI16, imm_fmtI16]

theorem trkAttack (t : TrackIdx) (rsv : BitVec 12) (v : BitVec 8) : Statement (.trkAttack t rsv v) := by
  intro rest
  apply decode_oneWord
  · rw [opcodeOf_fmtI8]; decide
  · rw [opcodeOf_fmtI8]; decide
  · simp only [decodeOneWord, opcodeOf_fmtI8, trackOf_fmtI8, rsv_fmtI8, imm_fmtI8]

theorem trkDecay (t : TrackIdx) (rsv : BitVec 12) (v : BitVec 8) : Statement (.trkDecay t rsv v) := by
  intro rest
  apply decode_oneWord
  · rw [opcodeOf_fmtI8]; decide
  · rw [opcodeOf_fmtI8]; decide
  · simp only [decodeOneWord, opcodeOf_fmtI8, trackOf_fmtI8, rsv_fmtI8, imm_fmtI8]

theorem trkSustain (t : TrackIdx) (rsv : BitVec 12) (v : BitVec 8) : Statement (.trkSustain t rsv v) := by
  intro rest
  apply decode_oneWord
  · rw [opcodeOf_fmtI8]; decide
  · rw [opcodeOf_fmtI8]; decide
  · simp only [decodeOneWord, opcodeOf_fmtI8, trackOf_fmtI8, rsv_fmtI8, imm_fmtI8]

theorem trkRelease (t : TrackIdx) (rsv : BitVec 12) (v : BitVec 8) : Statement (.trkRelease t rsv v) := by
  intro rest
  apply decode_oneWord
  · rw [opcodeOf_fmtI8]; decide
  · rw [opcodeOf_fmtI8]; decide
  · simp only [decodeOneWord, opcodeOf_fmtI8, trackOf_fmtI8, rsv_fmtI8, imm_fmtI8]

theorem trkWaitnote (t : TrackIdx) (rsv : BitVec 19) (v : Bool) : Statement (.trkWaitnote t rsv v) := by
  intro rest
  apply decode_oneWord
  · rw [opcodeOf_fmtB1]; decide
  · rw [opcodeOf_fmtB1]; decide
  · simp only [decodeOneWord, opcodeOf_fmtB1, trackOf_fmtB1, rsv_fmtB1, imm_fmtB1]

theorem trkMute (t : TrackIdx) (rsv : BitVec 19) (v : Bool) : Statement (.trkMute t rsv v) := by
  intro rest
  apply decode_oneWord
  · rw [opcodeOf_fmtB1]; decide
  · rw [opcodeOf_fmtB1]; decide
  · simp only [decodeOneWord, opcodeOf_fmtB1, trackOf_fmtB1, rsv_fmtB1, imm_fmtB1]

theorem trkTick (t : TrackIdx) (rsv : BitVec 20) : Statement (.trkTick t rsv) := by
  intro rest
  apply decode_oneWord
  · rw [opcodeOf_fmtT]; decide
  · rw [opcodeOf_fmtT]; decide
  · simp only [decodeOneWord, opcodeOf_fmtT, trackOf_fmtT, bits_fmtT]

theorem chTick (rsv : BitVec 24) : Statement (.chTick rsv) := by
  intro rest
  apply decode_oneWord
  · rw [opcodeOf_header]; decide
  · rw [opcodeOf_header]; decide
  · simp only [decodeOneWord, opcodeOf_header, bits_header]

theorem emulate (rsv : BitVec 24) : Statement (.emulate rsv) := by
  intro rest
  apply decode_oneWord
  · rw [opcodeOf_header]; decide
  · rw [opcodeOf_header]; decide
  · simp only [decodeOneWord, opcodeOf_header, bits_header]

theorem fadeIn (rsv : BitVec 24) : Statement (.fadeIn rsv) := by
  intro rest
  apply decode_oneWord
  · rw [opcodeOf_header]; decide
  · rw [opcodeOf_header]; decide
  · simp only [decodeOneWord, opcodeOf_header, bits_header]

theorem fadeOut (rsv : BitVec 24) : Statement (.fadeOut rsv) := by
  intro rest
  apply decode_oneWord
  · rw [opcodeOf_header]; decide
  · rw [opcodeOf_header]; decide
  · simp only [decodeOneWord, opcodeOf_header, bits_header]

theorem fadeReset (rsv : BitVec 24) : Statement (.fadeReset rsv) := by
  intro rest
  apply decode_oneWord
  · rw [opcodeOf_header]; decide
  · rw [opcodeOf_header]; decide
  · simp only [decodeOneWord, opcodeOf_header, bits_header]

theorem clrStatus (rsv : BitVec 24) : Statement (.clrStatus rsv) := by
  intro rest
  apply decode_oneWord
  · rw [opcodeOf_header]; decide
  · rw [opcodeOf_header]; decide
  · simp only [decodeOneWord, opcodeOf_header, bits_header]

theorem note (n : NoteFields) : Statement (.note n) := by
  intro rest
  simp only [encode, List.cons_append, List.nil_append, decode, opcodeOf_noteWord0, if_pos, decodeNoteCmd,
    decodeNote_words]

theorem chStop (rsvHi : BitVec 4) (c : ChanIdx) (rsvLo : BitVec 16) : Statement (.chStop rsvHi c rsvLo) := by
  intro rest
  obtain ⟨h1, h2, h3⟩ := chStop_fields rsvHi c rsvLo
  apply decode_oneWord
  · rw [opcodeOf_header]; decide
  · rw [opcodeOf_header]; decide
  · simp only [decodeOneWord, opcodeOf_header, h1, h2, h3]

theorem process (rsv : BitVec 22) (toRec toOut : Bool) : Statement (.process rsv toRec toOut) := by
  intro rest
  obtain ⟨h1, h2, h3⟩ := process_fields rsv toRec toOut
  apply decode_oneWord
  · rw [opcodeOf_header]; decide
  · rw [opcodeOf_header]; decide
  · simp only [decodeOneWord, opcodeOf_header, h1, h2, h3]

theorem setMaster (rsv : BitVec 24) (f : Binary32) : Statement (.setMaster rsv f) := by
  intro rest
  have h : (0x43#8 : BitVec 8) ≠ 0x20#8 := by decide
  simp only [encode, List.cons_append, List.nil_append, decode, opcodeOf_header, if_neg h, if_pos,
    decodeMasterCmd, bits_header]

end Sys2Proof.Laws.RoundTrip
end

