-- ==== Sys2Proof/Laws/Pipeline.lean ====
section
/-! SUPPORT. The functions of CH_TICK and of the fade (R87 to R90, R100, R107, R108), each said once. -/

namespace Sys2Proof.Machine

theorem clamp_eq (x lo hi : Int) (h : lo ≤ hi) : clamp x lo hi = max lo (min hi x) := by
  unfold clamp
  split
  · omega
  · split <;> omega

/-- R100 step 6: a clamped pan is stored whole. -/
theorem toInt_clampedPan (x : Int) : (BitVec.ofInt 7 (clamp x (-64) 63)).toInt = max (-64) (min 63 x) := by
  rw [clamp_eq x _ _ (by decide), BitVec.toInt_ofInt, Int.bmod_eq_of_le] <;> omega

/-- R64, R98: a raw pan is stored as its value minus 64. -/
theorem toInt_centred (raw : BitVec 7) : (centred raw).toInt = (raw.toNat : Int) - 64 := by
  revert raw
  decide

theorem transposedKey_toNat (key : BitVec 7) (transpose : BitVec 8) :
    ((transposedKey key transpose).toNat : Int) = max 0 (min 127 ((key.toNat : Int) + transpose.toInt)) := by
  rw [transposedKey, clamp_eq _ _ _ (by decide), BitVec.toNat_ofInt]
  omega

/-- R89: the release transition writes the state alone. -/
theorem releaseCheck_eq (w : Bool) (c : Channel) : releaseCheck w c =
    { c with state := if c.dur = 0 ∧ w = false then .release else c.state } := by
  unfold releaseCheck
  by_cases h : c.dur = 0 ∧ w = false
  · rw [if_pos h]
    by_cases hr : c.state = .release
    · rw [if_neg fun hh => hh.2.2 hr, ← hr]
    · rw [if_pos ⟨h.1, h.2, hr⟩]
  · rw [if_neg h, if_neg fun hh => h ⟨hh.1, hh.2.1⟩]

theorem sweeping_iff (c : Channel) :
    sweeping c = true ↔ c.sweepPitch ≠ 0 ∧ c.sweepCnt.toNat < c.sweepLen.toNat := by
  simp [sweeping]

/-- R90: the sweep advances its counter alone, and only as far as its length. -/
theorem sweepAdvance_eq (c : Channel) : sweepAdvance c =
    { c with sweepCnt := if sweeping c = true ∧ c.autoSweep = true then c.sweepCnt + 1 else c.sweepCnt } := by
  unfold sweepAdvance
  by_cases h : sweeping c = true ∧ c.autoSweep = true
  · rw [if_pos h, if_pos (by simp [h])]
  · rw [if_neg h, if_neg (by simpa using h)]

/-- R87: what the envelope step leaves alone. -/
theorem stepEnvelope_eq (c : Channel) : ∃ e st, stepEnvelope c = { c with env := e, state := st } := by
  unfold stepEnvelope
  split
  · exact ⟨_, _, rfl⟩
  · dsimp only
    split
    · exact ⟨_, _, rfl⟩
    · exact ⟨_, _, rfl⟩
  · exact ⟨_, _, rfl⟩
  · exact ⟨_, _, rfl⟩

/-- R100: what one channel's pass can leave: the volume, the pan, the timer, the envelope, the sweep counter
and the state may change, and the owner only to none, in Release. -/
theorem chTickOne_owner (P : Params) (tracks : Bank Track) (c : Channel) :
    (chTickOne P tracks c).owner = c.owner ∨
      ((chTickOne P tracks c).owner = none ∧ (chTickOne P tracks c).state = .release) := by
  unfold chTickOne
  split
  · exact .inl rfl
  · unfold chTickOwned
    dsimp only
    split
    · rename_i h
      exact .inr ⟨rfl, h.1⟩
    · obtain ⟨e, st, h⟩ := stepEnvelope_eq c
      refine .inl ?_
      rw [refresh, sweepAdvance_eq, releaseCheck_eq, h]

/-- R108 with R14's value of the parameter: silence is never late. -/
theorem lateSilence_params (m : Mixer) : lateSilence Config.params m = m := by
  unfold lateSilence
  rw [if_neg]
  rintro ⟨h, -⟩
  cases h

/-- R108: while silent the fade gives level and step 0 and does not move. -/
theorem fadeSetup_silent {m : Mixer} (h : m.silent = true) : fadeSetup Config.params m = ((0, 0), m) := by
  rw [fadeSetup, lateSilence_params, fadeRamp, if_pos h]

/-- R108: one microframe of a fade. -/
theorem fadeSetup_moves {m : Mixer} (h : m.silent = false) (hl : 0 < m.fadeLeft)
    (hn : ¬ (m.fadeLeft = 1 ∧ m.fadeDir = .fadingOut)) : fadeSetup Config.params m =
      ((fadeLevel Config.params m, f32Mul (f32Sub (fadeLevel Config.params (fadeAdvance m))
        (fadeLevel Config.params m)) (recip Config.params)), fadeAdvance m) := by
  rw [fadeSetup, lateSilence_params, fadeRamp, if_neg (by simp [h]), if_pos hl]
  dsimp only
  rw [if_neg]
  rintro ⟨-, h1, h2⟩
  exact hn ⟨by simp only [fadeAdvance] at h1; omega, h2⟩

/-- R108: the microframe that completes a fade-out falls silent. -/
theorem fadeSetup_completes {m : Mixer} (h : m.silent = false) (hl : m.fadeLeft = 1)
    (hd : m.fadeDir = .fadingOut) :
    fadeSetup Config.params m = ((0, 0), { fadeAdvance m with silent := true }) := by
  rw [fadeSetup, lateSilence_params, fadeRamp, if_neg (by simp [h]), if_pos (by omega)]
  dsimp only
  rw [if_pos ⟨rfl, by simp only [fadeAdvance]; omega, hd⟩]

/-- R108: without a fade the buffer starts at the master level. -/
theorem fadeSetup_plain {m : Mixer} (h : m.silent = false) (hl : m.fadeLeft = 0) :
    fadeSetup Config.params m = ((m.master, f32Mul (f32Sub m.master m.master) (recip Config.params)), m) := by
  rw [fadeSetup, lateSilence_params, fadeRamp, if_neg (by simp [h]), if_neg (by omega)]

end Sys2Proof.Machine
end

