-- ==== Sys2Proof/Laws/StatusWindow.lean ====
section
/-! SUPPORT. The status window by register: which word stands at which offset (R36), and the words that
hold one bit per index. -/

namespace Sys2Proof.Machine

/-- One bit per index, over any list of indices. -/
theorem getLsbD_foldl_bits (f : Fin 16 → Bool) (l : List (Fin 16)) (w : Word) (i : Nat) :
    (l.foldl (fun w i => if f i then w ||| 1#32 <<< i.val else w) w).getLsbD i =
      (w.getLsbD i || l.any fun k => decide (k.val = i) && f k) := by
  induction l generalizing w with
  | nil => simp
  | cons a l ih =>
    rw [List.foldl_cons, ih, List.any_cons]
    by_cases hf : f a = true
    · rw [if_pos hf]
      have ha : a.val < 32 := by have := a.isLt; omega
      by_cases h : a.val = i
      · subst h
        simp [hf, ha]
      · have hi : (w ||| 1#32 <<< a.val).getLsbD i = w.getLsbD i := by
          rw [BitVec.getLsbD_or, BitVec.getLsbD_shiftLeft, BitVec.getLsbD_one]
          have : (i < a.val) ∨ ¬ (i - a.val = 0) := by omega
          rcases this with h | h <;> simp [h]
        rw [hi]
        simp [h]
    · rw [if_neg hf]
      simp [hf]

/-- R36: bit i of MUTE, BUSY or TRKMASK. -/
theorem getLsbD_bitPerIdx (f : Fin 16 → Bool) (i : Fin 16) : (bitPerIdx f).getLsbD i.val = f i := by
  rw [bitPerIdx, getLsbD_foldl_bits, Bool.eq_iff_iff]
  simp [List.any_eq_true, Fin.val_inj, mem_allIdx]

/-- R36: the bits above the sixteenth read 0. -/
theorem bits_bitPerIdx (f : Fin 16 → Bool) : bits 16 16 (bitPerIdx f) = 0#16 := by
  apply bits_eq
  intro i hi
  rw [bitPerIdx, getLsbD_foldl_bits, Bool.eq_iff_iff]
  simp only [BitVec.getLsbD_zero, Bool.false_or, List.any_eq_true, Bool.and_eq_true, decide_eq_true_eq,
    Bool.false_eq_true, iff_false]
  rintro ⟨k, -, h, -⟩
  omega

theorem statusRead_global (s : State) {k : Nat} (h : k < 16) : statusRead s (4 * k) = globalReg s k := by
  rw [statusRead, if_pos (by omega), show 4 * k / 4 = k by omega]

theorem statusRead_track (s : State) (t : TrackIdx) {k : Nat} (h : k < 7) :
    statusRead s (0x40 + 0x40 * k + 4 * t.val) = trackReg s k t := by
  have := t.isLt
  rw [statusRead, if_neg (by omega), if_pos (by omega)]
  congr 1
  · omega
  · apply Fin.ext
    simp only [Fin.ofNat_eq_cast, Fin.val_natCast]
    omega

theorem statusRead_channel (s : State) (c : ChanIdx) {k : Nat} (h : k < 8) :
    statusRead s (0x200 + 4 * k + 32 * c.val) = channelReg (s.ch c) k := by
  have := c.isLt
  rw [statusRead, if_neg (by omega), if_neg (by omega)]
  congr 1
  · congr 1
    apply Fin.ext
    simp only [Fin.ofNat_eq_cast, Fin.val_natCast]
    omega
  · omega

/-- R40, R129: an aligned word in the window is an access the window has. -/
theorem accessOk_window (P : Params) {off : Nat} (h : off < 0x400) (h4 : off % 4 = 0) :
    accessOk P (P.blockBase + off) 4 = true := by
  simp [accessOk, h, h4]

end Sys2Proof.Machine
end

