-- ==== Sys2Proof/Tests/Slice0.lean ====
section
/-! SUPPORT. Tests: well-formedness, one decoded word per command, the vectors of spec/95_test_vectors.md
(V<n>.<m>) and of the rules' examples, and a witness for every statement that has hypotheses. Every expected
result stands in the spec. -/

namespace Sys2Proof.Tests

open Sys2Proof Sys2Proof.Machine

/-! ### Well-formed commands -/

theorem test_wf_accepts_spec_examples :
    (Instr.trkVolume 3 0 100).wf = true ∧ (Instr.setMaster 0 0x47800000).wf = true ∧
      (Instr.trkLfotype 0 0 2).wf = true ∧ (Instr.chStop 0 9 0).wf = true := by decide

theorem test_wf_refuses_reserved_n : (Instr.nop 1).wf = false := by decide
theorem test_wf_refuses_reserved_t : (Instr.trkInit 2 1).wf = false := by decide
theorem test_wf_refuses_reserved_v7 : (Instr.trkVolume 3 1 0).wf = false := by decide
theorem test_wf_refuses_reserved_u8 : (Instr.trkPriority 3 1 0).wf = false := by decide
theorem test_wf_refuses_reserved_e2 : (Instr.trkLfotype 3 1 0).wf = false := by decide
theorem test_wf_refuses_reserved_b1 : (Instr.trkWaitnote 3 1 false).wf = false := by decide
theorem test_wf_refuses_reserved_i16 : (Instr.trkLfodelay 3 1 0).wf = false := by decide
theorem test_wf_refuses_reserved_c : (Instr.chStop 1 9 0).wf = false ∧ (Instr.chStop 0 9 1).wf = false := by decide
theorem test_wf_refuses_reserved_p : (Instr.process 1 false false).wf = false := by decide
theorem test_wf_refuses_reserved_m : (Instr.setMaster 1 0).wf = false := by decide

/-- The NOTE of V1.9, whose reserved bits are 0. -/
def plainNote : NoteFields :=
  { t := 0, typ := 0, autoSweep := true, rsvA := 0, vel := 127, rsvB := 0, key := 60, dur := 0xFFFFFFFF
    baseTimer := 0x1000, rsvC := 0, baseKey := 60, rsvD := 0, startPan := 64, rsvE := 0, instAttack := 127
    rsvF := 0, instDecay := 127, rsvG := 0, instSustain := 127, rsvH := 0, instRelease := 127
    sweepPitch := 0xFD80, sweepLen := 10, oscCfg := 0 }

theorem test_wf_refuses_reserved_note :
    (Instr.note plainNote).wf = true ∧ (Instr.note { plainNote with rsvA := 1 }).wf = false ∧
      (Instr.note { plainNote with rsvB := 1 }).wf = false ∧ (Instr.note { plainNote with rsvC := 1 }).wf = false ∧
      (Instr.note { plainNote with rsvD := 1 }).wf = false ∧ (Instr.note { plainNote with rsvE := 1 }).wf = false ∧
      (Instr.note { plainNote with rsvF := 1 }).wf = false ∧ (Instr.note { plainNote with rsvG := 1 }).wf = false ∧
      (Instr.note { plainNote with rsvH := 1 }).wf = false := by decide

theorem test_wf_refuses_lfo_type_3 : (Instr.trkLfotype 0 0 3).wf = false := by decide
theorem test_wf_refuses_note_type_3 : (Instr.note { plainNote with typ := 3 }).wf = false := by decide
theorem test_wf_refuses_master_values :
    (Instr.setMaster 0 0x47800001).wf = false ∧ (Instr.setMaster 0 0x80000000).wf = false ∧
      (Instr.setMaster 0 0x7F800000).wf = false ∧ (Instr.setMaster 0 0x7FC00000).wf = false := by decide

/-! ### Decoding: a word of every command, written out from R51 to R53 -/

theorem test_decode_nop : decode [0x00000000#32] = .command (.nop 0) [] := by decide
theorem test_decode_trk_init : decode [0x01200000#32] = .command (.trkInit 2 0) [] := by decide
theorem test_decode_trk_volume : decode [0x02300064#32] = .command (.trkVolume 3 0 100) [] := by decide
theorem test_decode_trk_expression : decode [0x03000040#32] = .command (.trkExpression 0 0 64) [] := by decide
theorem test_decode_trk_priority : decode [0x04500046#32] = .command (.trkPriority 5 0 70) [] := by decide
theorem test_decode_trk_pan : decode [0x05100060#32] = .command (.trkPan 1 0 96) [] := by decide
theorem test_decode_trk_transpose : decode [0x061000FE#32] = .command (.trkTranspose 1 0 0xFE) [] := by decide
theorem test_decode_trk_pitchbend : decode [0x0720007F#32] = .command (.trkPitchbend 2 0 127) [] := by decide
theorem test_decode_trk_bendrange : decode [0x0820000C#32] = .command (.trkBendrange 2 0 12) [] := by decide
theorem test_decode_trk_lfotype : decode [0x09000001#32] = .command (.trkLfotype 0 0 1) [] := by decide
theorem test_decode_trk_lfodepth : decode [0x0A000028#32] = .command (.trkLfodepth 0 0 40) [] := by decide
theorem test_decode_trk_lfospeed : decode [0x0B000020#32] = .command (.trkLfospeed 0 0 32) [] := by decide
theorem test_decode_trk_lforange : decode [0x0C000002#32] = .command (.trkLforange 0 0 2) [] := by decide
theorem test_decode_trk_lfodelay : decode [0x0DF01234#32] = .command (.trkLfodelay 15 0 0x1234) [] := by decide
theorem test_decode_trk_attack : decode [0x0E00007F#32] = .command (.trkAttack 0 0 127) [] := by decide
theorem test_decode_trk_decay : decode [0x0F0000FF#32] = .command (.trkDecay 0 0 255) [] := by decide
theorem test_decode_trk_sustain : decode [0x10400064#32] = .command (.trkSustain 4 0 100) [] := by decide
theorem test_decode_trk_release : decode [0x11400000#32] = .command (.trkRelease 4 0 0) [] := by decide
theorem test_decode_trk_waitnote : decode [0x12000001#32] = .command (.trkWaitnote 0 0 true) [] := by decide
theorem test_decode_trk_mute : decode [0x13300001#32] = .command (.trkMute 3 0 true) [] := by decide
theorem test_decode_trk_tick : decode [0x14000000#32] = .command (.trkTick 0 0) [] := by decide
theorem test_decode_ch_stop : decode [0x21090000#32] = .command (.chStop 0 9 0) [] := by decide
theorem test_decode_ch_tick : decode [0x30000000#32] = .command (.chTick 0) [] := by decide
theorem test_decode_process : decode [0x31000001#32] = .command (.process 0 false true) [] ∧
    decode [0x31000002#32] = .command (.process 0 true false) [] := by decide
theorem test_decode_emulate : decode [0x32000000#32] = .command (.emulate 0) [] := by decide
theorem test_decode_fade_in : decode [0x40000000#32] = .command (.fadeIn 0) [] := by decide
theorem test_decode_fade_out : decode [0x41000000#32] = .command (.fadeOut 0) [] := by decide
theorem test_decode_fade_reset : decode [0x42000000#32] = .command (.fadeReset 0) [] := by decide
theorem test_decode_set_master :
    decode [0x43000000#32, 0x3F000000#32] = .command (.setMaster 0 0x3F000000) [] := by decide
theorem test_decode_clr_status : decode [0x4F000000#32] = .command (.clrStatus 0) [] := by decide

/-- V1.9. -/
theorem test_decode_note :
    decode [0x20027F3C#32, 0xFFFFFFFF#32, 0x10003C40#32, 0x7F7F7F7F#32, 0xFD80000A#32, 0x00000000#32] =
      .command (.note plainNote) [] := by decide

/-- R39, R59: a word carried as bytes is little-endian. -/
theorem test_decode_bytes :
    decodeBytes [0x64#8, 0x00#8, 0x30#8, 0x02#8] = .command (.trkVolume 3 0 100) [] ∧
      encodeBytes (.trkVolume 3 0 100) = [0x64#8, 0x00#8, 0x30#8, 0x02#8] := by decide

/-- R53: unknown opcodes stand right beside the known ones. -/
theorem test_unknown_opcodes :
    ([0x15#32, 0x1F#32, 0x22#32, 0x2F#32, 0x33#32, 0x3F#32, 0x44#32, 0x4E#32, 0x50#32, 0xFF#32].all fun op =>
      decode [op <<< 24] == .unknown (op.setWidth 8) []) = true ∧
    ([0x14#32, 0x21#32, 0x30#32, 0x32#32, 0x40#32, 0x42#32, 0x4F#32].all fun op =>
      decode [op <<< 24] != .unknown (op.setWidth 8) []) = true ∧
    decode [0x20000000#32] = .incomplete ∧ decode [0x43000000#32] = .incomplete := by decide

/-- R57, R58: the text and the expansion of commands. -/
theorem test_pseudo_instructions :
    assemble (asmTrkAdsr 4 127 255 100 0) = [0x0E40007F#32, 0x0F4000FF#32, 0x10400064#32, 0x11400000#32] ∧
      assemble (asmTrkLfo 0 .pitch 40 64 2 2) =
        [0x09000000#32, 0x0A000028#32, 0x0B000040#32, 0x0C000002#32, 0x0D000002#32] ∧
      assemble (asmNoteOff 9) = [0x21090000#32] ∧
      assemble (asmFrame true true [0, 1]) = [0x14000000#32, 0x14100000#32, 0x30000000#32, 0x31000003#32] := by
  decide

/-- The words a line of assembly stands for. -/
def wordsOf (line : String) : Option (List Word) := (asmRead line.toList).map assemble

/-- V1.1 to V1.6. -/
theorem test_assembler_one_line :
    wordsOf "TRK_VOLUME t3, 100" = some [0x02300064#32] ∧
      wordsOf "TRK_TRANSPOSE t1, -2 ; two down" = some [0x061000FE#32] ∧
      wordsOf "TRK_LFODELAY t15, 0x1234" = some [0x0DF01234#32] ∧ wordsOf "CH_STOP c9" = some [0x21090000#32] ∧
      wordsOf "PROCESS OUT|REC" = some [0x31000003#32] ∧
      wordsOf "SET_MASTER 0.5" = some [0x43000000#32, 0x3F000000#32] ∧ wordsOf "CH_STOP c16" = none := by
  decide +kernel

/-- V1.9. -/
theorem test_assembler_note :
    wordsOf "NOTE t0, PCM, 60, 127, -1, 0x1000, 60, 64, 127, 127, 127, 127, -640, 10, 1, 0" =
      some [0x20027F3C#32, 0xFFFFFFFF#32, 0x10003C40#32, 0x7F7F7F7F#32, 0xFD80000A#32, 0x00000000#32] := by
  decide +kernel

/-- The fetch word of the host's question: the six words of a row, the row's own first. -/
theorem test_with_fetch_word :
    decodeTableWord 32 0x43000000 = some (.setMaster 0 0) ∧
      (match step (State.reset.withFetchWord 32 0x02300064) with
        | .next s => (s.trk 3).volume == 100 && s.stream.length == 5
        | _ => false) = true := by decide

/-! ### One step on a small state -/

/-- The state one step after words were placed. -/
def after (s : State) (ws : List Word) : Option State :=
  match step { s with stream := ws } with
  | .next s' => some s'
  | .fault _ => none
  | .refused _ => none

/-- V2.1 and V2.2. -/
theorem test_trk_volume :
    (after State.reset [0x02300080#32]).map (fun s => ((s.trk 3).volume, statusRead s 4)) = some (0, 2) ∧
      (after State.reset [0x02380064#32]).map (fun s => ((s.trk 3).volume, statusRead s 4)) = some (100, 2) := by
  decide
/-- R62. -/
theorem test_trk_expression :
    (after State.reset [0x03000040#32]).map (fun s => ((s.trk 0).expression, (s.trk 0).volume)) = some (64, 127) := by
  decide
/-- R63. -/
theorem test_trk_priority :
    (after State.reset [0x04500046#32]).map (fun s => ((s.trk 5).priority, (s.trk 4).priority)) = some (70, 64) := by
  decide
/-- V4.1, V4.2, V4.3. -/
theorem test_trk_pan :
    (after State.reset [0x05100060#32]).map (fun s => (s.trk 1).pan.toInt) = some 32 ∧
      (after State.reset [0x05000000#32]).map (fun s => (s.trk 0).pan.toInt) = some (-64) ∧
      (after State.reset [0x0510007F#32]).map (fun s => (s.trk 1).pan.toInt) = some 63 := by decide
/-- V4.4. -/
theorem test_trk_transpose :
    (after State.reset [0x061000FE#32]).map (fun s => (s.trk 1).transpose.toInt) = some (-2) := by decide
/-- V4.5. -/
theorem test_trk_pitchbend :
    (after State.reset [0x0720007F#32]).map (fun s => (s.trk 2).pitchBend.toInt) = some 127 := by decide
theorem test_trk_bendrange :
    (after State.reset [0x0820000C#32]).map (fun s => (s.trk 2).bendRange) = some 12 := by decide
/-- R68, V2.3. -/
theorem test_trk_lfotype :
    (after State.reset [0x09000001#32]).map (fun s => ((s.trk 0).lfoType, s.st.rsv)) = some (.volume, false) := by
  decide
theorem test_trk_lfotype_invalid :
    ((after State.reset [0x09000001#32]).bind fun s => after s [0x09000003#32]).map
      (fun s => ((s.trk 0).lfoType, statusRead s 4)) = some (.volume, 2) := by decide
/-- R69, R70, R71. -/
theorem test_trk_lfodepth :
    (after State.reset [0x0A000028#32]).map (fun s => (s.trk 0).lfoDepth) = some 40 := by decide
theorem test_trk_lfospeed :
    (after State.reset [0x0B000020#32]).map (fun s => (s.trk 0).lfoSpeed) = some 32 := by decide
theorem test_trk_lforange :
    (after State.reset [0x0C000002#32]).map (fun s => (s.trk 0).lfoRange) = some 2 := by decide
/-- V4.6. -/
theorem test_trk_lfodelay :
    (after State.reset [0x0DF01234#32]).map (fun s => ((s.trk 15).lfoDelay, (s.trk 15).lfoDelayCnt)) =
      some (4660, 0) := by decide
/-- R73, V4.8, R75, R76, V4.7. -/
theorem test_trk_attack :
    (after State.reset [0x0E00007F#32]).map (fun s => (s.trk 0).attack) = some 127 := by decide
theorem test_trk_decay :
    ((after State.reset [0x0F000001#32]).bind fun s => after s [0x0F0000FF#32]).map (fun s => (s.trk 0).decay) =
      some 255 := by decide
theorem test_trk_sustain :
    (after State.reset [0x10400064#32]).map (fun s => (s.trk 4).sustain) = some 100 := by decide
theorem test_trk_release :
    (after State.reset [0x11400000#32]).map (fun s => (s.trk 4).release) = some 0 := by decide
theorem test_trk_waitnote :
    (after State.reset [0x12000001#32]).map (fun s => (s.trk 0).waitNote) = some true := by decide
/-- R102. -/
theorem test_trk_mute :
    (after State.reset [0x13300001#32]).map (fun s => (s.mix.mute[3], s.mix.mute[2], statusRead s 0x14)) =
      some (true, false, 8) := by decide
/-- V2.4, V2.5. -/
theorem test_unknown_opcode :
    (after State.reset [0xFF123456#32]).map (fun s => (statusRead s 4, s.pos)) = some (1, 1) := by decide
theorem test_nop_reserved :
    (after State.reset [0x00000001#32]).map (fun s => statusRead s 4) = some 2 := by decide
/-- V2.6. -/
theorem test_clr_status_reserved :
    (after (State.reset.raiseDrop.setLastNote 0x2001) [0x4F000001#32]).map
      (fun s => (statusRead s 4, statusRead s 8)) = some (2, 0) := by decide
/-- V3.1, V3.2. -/
theorem test_set_master_accepts :
    (after State.reset [0x43000000#32, 0x3F000000#32]).map (fun s => (s.mix.master, s.st.rsv, s.pos)) =
        some (0x3F000000, false, 2) ∧
      (after State.reset [0x43000000#32, 0x47800000#32]).map (fun s => s.mix.master) = some 0x47800000 := by
  decide
/-- V3.3 to V3.7. -/
theorem test_set_master_refuses :
    ([0x47800001#32, 0x80000000#32, 0xBF800000#32, 0x7F800000#32, 0x7FC00000#32].all fun v =>
      (after State.reset [0x43000000#32, v]).map (fun s => (s.mix.master, statusRead s 4)) ==
        some (0x3F800000, 2)) = true := by decide

/-! ### The test parameters of spec/95_test_vectors.md section 0

POW is left as the identity: no test below depends on its values between 0 and 1. -/

/-- The test tables. -/
def testParams : Params where
  sustainTable i := ((i.toNat : Int) - 127) * 728
  attackTable i := BitVec.ofNat 8 (127 - i.toNat)
  decayTable i := 64 * i.toNat
  sin i := BitVec.ofInt 8
    (if i.toNat < 32 then (i.toNat : Int) else if i.toNat < 96 then 64 - i.toNat else (i.toNat : Int) - 128)
  volumeFn x := BitVec.ofInt 7 (quot ((clamp x FLOOR 0 - FLOOR) * 127) 92544)
  timerFn b p := BitVec.ofInt 16 (clamp ((b.toNat : Int) - p) 0 0xFFFF)
  oscInit _ _ := 0
  osc _ cfg _ q := (cfg.setWidth 16, q)
  pow x := x
  spb := 4
  blockBase := 0x400
  chMask := Config.defaultMask
  lfoShift := 8
  fadeSilenceOnCompletingCall := true

/-- Reset under the test parameters. -/
def start : State := State.resetWith testParams

/-- The effect of a NOTE under the test parameters. -/
def playNote (ws : List Word) (s : State) : State :=
  match decode ws with
  | .command (.note n) _ => noteStart testParams n (s.rsvCheck (!n.reservedZero))
  | _ => s

/-- The words of V1.8, with its duration 5. -/
def noteV18 : List Word :=
  [0x20007F3C#32, 0x00000005#32, 0x10003C40#32, 0x64646450#32, 0x00000000#32, 0x000003E8#32]

/-- The words of V1.7. -/
def noteV17 : List Word :=
  [0x2024643C#32, 0x00000030#32, 0x80003C40#32, 0x7F645A50#32, 0x00000000#32, 0x00000000#32]

/-- V9.1 and V9.2. -/
theorem test_note_status_words :
    let s := playNote noteV17 start
    [0x008, 0x300, 0x304, 0x308, 0x30C, 0x314, 0x318].map (statusRead s) =
      [0x2083#32, 0x0323C421#32, 0xFFFE9680#32, 0x80000000#32, 0x00000030#32, 0x003C0000#32, 0x00008000#32] := by
  decide
/-- V2.7 and V2.8. -/
theorem test_note_invalid_or_reserved :
    (let s := playNote [0x205C7F3C#32, 0, 0, 0, 0, 0] start
     (statusRead s 4, statusRead s 8, statusRead s 0x18) = (6, 0x5001, 0)) ∧
    (let s := playNote [0x20007F3C#32, 0xFFFFFFFF#32, 0x10003C40#32, 0xFF7F7F7F#32, 0, 0] start
     (statusRead s 4, statusRead s 8, (s.ch 0).atkRate) = (2, 0x0003, 0)) := by decide

/-- The NOTE of V9.3: NOISE of track t, ADSR 127, duration -1. -/
def noiseNote (t : TrackIdx) : List Word :=
  [pack (0x20#8 ++ idxBits t ++ 0x87F3C#20) rfl, 0xFFFFFFFF#32, 0x10003C40#32, 0x7F7F7F7F#32, 0, 0]

/-- V9.3, V9.4. -/
theorem test_arbiter_drops :
    let s := playNote (noiseNote 0) (playNote (noiseNote 0) start)
    let s' := playNote (noiseNote 3) (s.modTrk 3 fun x => { x with priority := 63 })
    (s.st.lastNote, s'.st.lastNote, s'.st.drop) = (0x00F3, 0x3001, true) := by decide
/-- V9.5, V9.6. -/
theorem test_arbiter_steals :
    let s := (playNote (noiseNote 0) (playNote (noiseNote 0) start)).modTrk 3 fun x => { x with priority := 63 }
    let r := chStopEffect 14 (s.setCh 15 { s.ch 15 with state := .release })
    let s5 := playNote (noiseNote 3) r
    let s6 := playNote (noiseNote 3) s5
    (s5.st.lastNote, s6.st.lastNote) = (0x30E3, 0x30F7) := by decide

/-- V7.1, tick 1, and V7.4. -/
theorem test_ch_tick_attack :
    let s := chTickAll testParams (playNote noteV18 start)
    (((s.ch 0).state, (s.ch 0).env, (s.ch 0).volume.toNat) = (.attack, -9798, 113)) ∧
    (let z := playNote noteV18 start
     let s := chTickAll testParams (z.setCh 0 { z.ch 0 with dur := 0 })
     ((s.ch 0).state, (s.ch 0).env, (s.ch 0).volume.toNat) = (.release, -9798, 113)) := by decide
/-- The example of R100 (V10.7). -/
theorem test_ch_tick_frees :
    let z := playNote noteV18 start
    let s := chTickAll testParams
      (z.setCh 0 { z.ch 0 with state := .release, env := -92000, relRate := 1000 })
    ((s.ch 0).owner, (s.ch 0).env, (s.ch 0).volume) = (none, -92544, 0) := by decide
/-- V10.3, V10.4: pitch and timer, with a sweep. -/
theorem test_channel_pitch :
    let x := { Track.defaults with pitchBend := 127, bendRange := 12 }
    let y := { Track.defaults with pitchBend := 0x80, bendRange := 255 }
    let c := { (playNote noteV18 start).ch 0 with
      key := 0, baseKey := 127, sweepPitch := 32767, sweepLen := 1, autoSweep := true }
    (trackPitch testParams x, channelPitch testParams y c, (sweepAdvance c).sweepCnt) = (762, 8319, 1) := by decide
/-- V10.5, V10.6, V6.6, V6.7, V6.9: the LFO. -/
theorem test_lfo :
    let x := { Track.defaults with lfoType := .pan, lfoDepth := 255, lfoRange := 255, lfoPhase := 0x2000, pan := 63 }
    let y := { x with lfoType := .volume, lfoPhase := 0x6000 }
    (lfoValue testParams x, trackPan testParams x, lfoValue testParams y, trackVolume testParams y,
      lfoValue testParams { x with lfoDelayCnt := 1 }) = (8128, 63, -8129, -8129, 0) := by decide
/-- V8.3, R91. -/
theorem test_sweep :
    let c := { Channel.atReset testParams with sweepPitch := BitVec.ofInt 16 (-640), sweepLen := 10 }
    let d := { Channel.atReset testParams with sweepPitch := BitVec.ofInt 16 (-100), sweepLen := 3, sweepCnt := 1 }
    ([0, 3, 9, 10].map fun k => sweepValue { c with sweepCnt := k }) = [-640, -448, -64, 0] ∧
      sweepValue d = -66 := by decide

/-- V5.1. -/
theorem test_trk_init_frees :
    let held := fun (t : TrackIdx) => { Channel.atReset testParams with owner := some t, volume := 9 }
    let z := ((start.setCh 3 (held 2)).setCh 9 (held 2)).setCh 4 (held 1)
    let s := trackInit 2 { z with mix := { z.mix with mute := z.mix.mute.set 2 true } }
    ((s.ch 3).owner, (s.ch 9).owner, (s.ch 9).volume, (s.ch 4).owner, s.mix.mute[2]) =
      (none, none, 0, some 1, true) := by decide
/-- V5.2. -/
theorem test_trk_init_defaults :
    (after State.reset [0x01200000#32]).map (fun s => [0xC8, 0x108, 0x148, 0x188].map (statusRead s)) =
      some [0x00407F7F#32, 0x00020000#32, 0x00011000#32, 0xFFFFFFFF#32] := by decide
/-- V6.1, V6.2. -/
theorem test_trk_tick_owned :
    let z := start.setCh 0 { Channel.atReset testParams with owner := some 0, dur := 1 }
    let s := trackTick 0 (z.modTrk 0 fun x => { x with lfoPhase := 0x7C00 })
    let r := trackTick 0 (z.modTrk 0 fun x => { x with lfoPhase := 0x7F00, lfoSpeed := 255 })
    ((s.ch 0).dur, (s.trk 0).lfoPhase, (r.trk 0).lfoPhase) = (0, 0, 0x3EC0) := by decide
/-- V6.3, V6.5. -/
theorem test_trk_tick_idle :
    let z := start.setCh 1 { Channel.atReset testParams with owner := some 1, dur := 0xFFFFFFFF }
    let s := trackTick 0 (z.modTrk 0 fun x => { x with lfoDelay := 2, lfoPhase := 0x1234 })
    ((s.trk 0).lfoPhase, (s.trk 0).lfoDelayCnt, ((trackTick 1 z).ch 1).dur) = (0, 2, 0xFFFFFFFF) := by decide
/-- The example of R93. -/
theorem test_ch_stop :
    let z := State.reset.setCh 9 { Channel.atReset testParams with owner := some 4, volume := 5, env := -7 }
    (after z [0x21090000#32]).map (fun s => ((s.ch 9).owner, (s.ch 9).volume, (s.ch 9).env)) =
      some (none, 0, -7) := by decide

/-! ### The mixer -/

/-- V11.1 to V11.7. -/
theorem test_contrib :
    ([(32767, 127, -64), (32767, 127, 0), (32767, 127, 63), (-32768, 127, 63), (1000, 64, 0), (-1, 127, 0),
      (127, 1, 0)].map fun x : Int × Int × Int =>
        contrib { Channel.atReset testParams with
          volume := BitVec.ofInt 7 x.2.1, pan := BitVec.ofInt 7 x.2.2 } x.1) =
      [(32767, 0), (16383, 16383), (255, 32511), (-256, -32512), (251, 251), (0, 0), (0, 0)] := by decide
/-- V11.8 to V11.13. -/
theorem test_out16 :
    ([(524288, 0x3F800000#32), (-524288, 0x3F800000#32), (3, 0x3F000000#32), (-3, 0x3F000000#32),
      (40000, 0x3F400000#32), (1000, 0x00000000#32)].map fun x : Int × Word => (out16 x.1 x.2).toInt) =
      [32767, -32768, 1, -1, 30000, 0] := by decide +kernel
/-- R14, R104: 1/4 and 1/1920 in binary32. -/
theorem test_recip : f32Recip 4 = 0x3E800000#32 ∧ f32Recip 1920 = 0x3A088889#32 := by decide +kernel

/-- The channel of V12: track 0, pan -64, volume 127, samples of 30000. -/
def loudChannel : Channel :=
  { Channel.atReset testParams with owner := some 0, pan := 0x40, volume := 127, oscCfg := 30000 }

/-- P3, buffers 2 and 3: pan, mute and the bytes of a frame, in both queues. -/
theorem test_process_bytes :
    let z := (start.setCh 0 { loudChannel with oscCfg := 1000 }).setCh 1
      { loudChannel with owner := some 1, pan := 63, oscCfg := 0xFFFFF830 }
    let s := processBuffer testParams false true z
    let r := processBuffer testParams true true { z with mix := { z.mix with mute := z.mix.mute.set 1 true } }
    (s.audioQ.map fun b => (b.take 4, b.length)) = [([0xD9#8, 0x03#8, 0x40#8, 0xF8#8], 16)] ∧ s.recQ = [] ∧
      (r.recQ.map fun b => b.take 4) = [[0xE8#8, 0x03#8, 0x00#8, 0x00#8]] ∧ r.audioQ = r.recQ := by
  decide +kernel
/-- V12.1: the first microframe of a fade-out. -/
theorem test_process_fade :
    let m := { start.mix with fadeDir := .fadingOut, fadePos := f32One, fadeLeft := FADE_LEN, fadeStep := fadeStepOut }
    let s := processBuffer testParams false true { (start.setCh 0 loudChannel) with mix := m }
    (s.mix.fadePos, s.mix.fadeLeft, s.mix.silent) = (0x3F7FDDDE#32, 1919, false) ∧
      (s.audioQ.map fun b => b.take 4) = [[0x30#8, 0x75#8, 0x00#8, 0x00#8]] := by decide +kernel
/-- V12.5: the last microframe of a fade-out. -/
theorem test_process_silences :
    let m := { start.mix with fadeDir := .fadingOut, fadePos := 0x3A0B1F1F#32, fadeLeft := 1, fadeStep := fadeStepOut }
    let s := processBuffer testParams false true { (start.setCh 0 loudChannel) with mix := m }
    (s.mix.fadePos, s.mix.fadeLeft, s.mix.silent) = (0x3725A580#32, 0, true) ∧
      s.audioQ = [List.replicate 16 0#8] := by decide +kernel
/-- R114: oscillators advance, an owned channel's only; nothing is emitted. -/
theorem test_emulate :
    let P := { testParams with osc := fun _ _ _ q => (0, q + 1) }
    let s := emulateBuffer P (start.setCh 0 loudChannel)
    ((s.ch 0).oscState, (s.ch 1).oscState, s.audioQ) = (4, 0, []) := by decide
/-- R104, R105, R106. -/
theorem test_fade_in :
    (after { State.reset with mix := { State.reset.mix with silent := true } } [0x40000000#32]).map
      (fun s => (statusRead s 4, statusRead s 0xC, s.mix.fadePos, s.mix.fadeStep)) =
      some (0x10, 1920, 0, 0x3A088889) := by decide
theorem test_fade_out :
    (after { State.reset with mix := { State.reset.mix with silent := true } } [0x41000000#32]).map
      (fun s => (statusRead s 4, statusRead s 0xC, s.mix.fadePos, s.mix.fadeStep)) =
      some (0x28, 1920, 0x3F800000, 0xBA088889) := by decide
theorem test_fade_reset :
    (after { State.reset with mix := { State.reset.mix with silent := true, fadeLeft := 3 } } [0x42000000#32]).map
      (fun s => (statusRead s 4, statusRead s 0xC)) = some (0, 0) := by decide

/-! ### Witnesses: states and operands that meet the hypotheses of the statements

Each is named after its statement; a clause has its witness at the ends of its range. -/

/-- A channel of track `t` that plays, whatever the platform's oscillator is. -/
def played (t : TrackIdx) : Channel := { Channel.atReset Config.params with owner := some t, dur := 1 }

theorem witness_DecodedWordsAreTheEncoding :
    decode [0x43000000#32, 0x3F000000#32, 7] = .command (.setMaster 0 0x3F000000) [7] := by decide

/-- An unknown and a known header at the head of a stream. -/
theorem witness_UnknownOpcodeOnlySetsUnk :
    { State.reset with stream := [0x50000000#32, 9] }.stream = 0x50000000#32 :: [9] ∧
      decode [0x50000000#32, 9] = .unknown 0x50#8 [9] ∧ decode [0x4F000000#32, 9] = .command (.clrStatus 0) [9] := by
  decide

theorem witness_ReservedMasksRaiseRsv :
    ([.nop 0x800000, .trkInit 0 1, .trkPriority 0 1 0, .trkVolume 0 1 0, .trkLfotype 0 1 0, .trkWaitnote 0 1 false,
      .trkLfodelay 0 8 0, .chStop 8 0 0, .chStop 0 0 1, .process 1 true true, .setMaster 1 0,
      .note { plainNote with rsvA := 1 }, .note { plainNote with rsvC := 1 },
      .note { plainNote with rsvE := 1 }].all rsvMaskHit) = true := by decide

theorem witness_StepExecutesDecodedCommand :
    decode { State.reset with stream := [0x21090000#32, 5] }.stream = .command (.chStop 0 9 0) [5] := by decide

theorem witness_EveryCommandIsConsumedInOneStep :
    { State.reset with stream := [0x21090000#32, 5] }.stream = encode (.chStop 0 9 0) ++ [5] := by decide

/-- A NOTE with none and with four of its five further words, and a SET_MASTER without its second. -/
theorem witness_PartialCommandWaits :
    (opcodeOf 0x20000000#32 = 0x20#8 ∧ ([] : List Word).length < 5 ∧ [1#32, 2, 3, 4].length < 5) ∧
      opcodeOf 0x43000000#32 = 0x43#8 ∧ { State.reset with stream := [0x43000000#32] }.host = [] := by decide

/-- Reads at both ends of the window, with a NOTE partly received. -/
theorem witness_StatusReadChangesNothing :
    let s := { State.reset with stream := [0x20000000#32, 1], host := [.read (Config.params.blockBase + 0x3FC) 4] }
    let r := { State.reset with host := [.read (Config.params.blockBase + 0) 4] }
    decode s.stream = .incomplete ∧ 0x3FC < 0x400 ∧ 0x3FC % 4 = 0 ∧
      s.host = .read (Config.params.blockBase + 0x3FC) 4 :: [] ∧
      decode r.stream = .incomplete ∧ r.host = .read (Config.params.blockBase + 0) 4 :: [] :=
  ⟨rfl, by decide, by decide, rfl, rfl, rfl⟩

/-- Writes to CMD and to the offset after it. -/
theorem witness_CommandPortWrite :
    let s := { State.reset with host := [.write (Config.params.blockBase + 0) 4 7] }
    let r := { State.reset with host := [.write (Config.params.blockBase + 4) 4 7] }
    decode s.stream = .incomplete ∧ s.host = .write (Config.params.blockBase + 0) 4 7 :: [] ∧
      decode r.stream = .incomplete ∧ r.host = .write (Config.params.blockBase + 4) 4 7 :: [] :=
  ⟨rfl, rfl, rfl, rfl⟩

/-- The last word of the window is an access it has; the one after it, a halfword and a misaligned word
are not. -/
theorem witness_BadAccessIsRefused :
    let good := fun addr width : Nat =>
      width = 4 ∧ ∃ off, off < 0x400 ∧ off % 4 = 0 ∧ addr = Config.params.blockBase + off
    good Config.params.blockBase 4 ∧ good (Config.params.blockBase + 0x3FC) 4 ∧
      ¬ good (Config.params.blockBase + 0x400) 4 ∧ ¬ good Config.params.blockBase 2 ∧
      ¬ good (Config.params.blockBase + 1) 4 ∧
      { State.reset with host := [.read Config.params.blockBase 2] }.host =
        .read Config.params.blockBase 2 :: [] := by
  refine ⟨⟨rfl, 0, by decide, rfl, rfl⟩, ⟨rfl, 0x3FC, by decide, by decide, rfl⟩, ?_, ?_, ?_, rfl⟩
  · rintro ⟨-, off, h, -, h'⟩
    omega
  · rintro ⟨h, -⟩
    cases h
  · rintro ⟨-, off, -, h, h'⟩
    omega

/-- The ranges the window's words assume, at their ends, and a channel with and one without an owner. -/
theorem witness_StatusWindowWords :
    State.reset.mix.fadeLeft < 2 ^ 32 ∧ FADE_LEN < 2 ^ 32 ∧ FLOOR ≤ (Channel.atReset testParams).env ∧
      (Channel.atReset testParams).env ≤ 0 ∧ ((State.reset.setCh 3 (played 2)).ch 3).owner = some 2 ∧
      (State.reset.ch 3).owner = none ∧ 7 ≤ 7 ∧ 15 < 16 := by decide

theorem witness_BufferRemovalAndReset :
    let s := { State.reset with audioQ := [[1], [2]], recQ := [[3]], host := [.takeAudio, .takeRec, .reset] }
    decode s.stream = .incomplete ∧ s.host = .takeAudio :: [.takeRec, .reset] ∧ s.audioQ = [1] :: [[2]] ∧
      { s with host := [.takeRec] }.host = .takeRec :: [] ∧ s.recQ = [3] :: [] ∧
      { s with host := [.reset] }.host = .reset :: [] := ⟨rfl, rfl, rfl, rfl, rfl, rfl⟩

/-- A sink that tries an empty queue. -/
theorem witness_BufferRemovalAndReset_empty :
    let s := { State.reset with host := [.takeAudio, .takeRec] }
    decode s.stream = .incomplete ∧ s.host = .takeAudio :: [.takeRec] ∧ s.audioQ = [] ∧
      { s with host := [.takeRec] }.host = .takeRec :: [] ∧ s.recQ = [] := ⟨rfl, rfl, rfl, rfl, rfl⟩

/-- Headers of the commands whose statements assume their opcode. -/
theorem witness_opcodes :
    ([0x00#8, 0x01#8, 0x02#8, 0x03#8, 0x04#8, 0x05#8, 0x06#8, 0x07#8, 0x08#8, 0x09#8, 0x0A#8, 0x0B#8, 0x0C#8,
      0x0D#8, 0x0E#8, 0x0F#8, 0x10#8, 0x11#8, 0x12#8, 0x13#8, 0x14#8, 0x20#8, 0x21#8, 0x30#8, 0x31#8, 0x32#8,
      0x40#8, 0x41#8, 0x42#8, 0x43#8, 0x4F#8].all fun op => opcodeOf (header op 0) == op) = true := by decide

/-- LFO types 0 to 2 and 3. -/
theorem witness_LfoTypeWrite :
    lfoTypeCode .pitch = bits 0 2 0x09000000#32 ∧ lfoTypeCode .volume = bits 0 2 0x09000001#32 ∧
      lfoTypeCode .pan = bits 0 2 0x09000002#32 ∧ bits 0 2 0x09000003#32 = 3#2 := by decide

/-- For TRK_INIT, TRK_TICK, CH_STOP and CH_TICK: a track that owns one channel and not the others, and a
free channel. -/
theorem witness_owned_and_free :
    let s := State.reset.setCh 3 (played 2)
    (s.ch 3).owner = some (trackOf 0x01200000#32) ∧ (s.ch 4).owner ≠ some (trackOf 0x01200000#32) ∧
      (s.ch 4).owner = none ∧ (s.ch 3).owner ≠ none ∧ channelOf 0x21030000#32 = 3 := by decide

theorem witness_EnvelopeStepKeepsRanges : ChannelOk (Channel.atReset testParams) := by
  constructor <;> decide

/-- Attack at both ends of the level and of the rate. -/
theorem witness_AttackEnds :
    let c := Channel.atReset testParams
    c.state = .attack ∧ FLOOR ≤ c.env ∧ c.env ≤ 0 ∧ c.env < 0 ∧ c.atkRate.toNat = 0 ∧
      { c with atkRate := 254 }.atkRate.toNat ≤ 254 ∧ { c with atkRate := 255 }.atkRate.toNat = 255 ∧
      { c with env := 0 }.env ≤ 0 ∧ { c with env := -1 }.env < 0 := by decide

theorem witness_DecayReachesSustain :
    let c := { Channel.atReset testParams with state := .decay, env := 0, susLevel := FLOOR, decRate := 1 }
    c.state = .decay ∧ 0 < c.decRate ∧ { c with decRate := 0 }.decRate = 0 ∧ c.susLevel < c.env := by decide

theorem witness_ReleaseFallsToTheFloor :
    let c := { Channel.atReset testParams with state := .release, env := 0, relRate := 1 }
    FLOOR ≤ c.env ∧ c.env ≤ 0 ∧ FLOOR ≤ c.susLevel ∧ c.susLevel ≤ 0 ∧ c.state = .release ∧ 0 < c.relRate ∧
      FLOOR < c.env ∧ FLOOR ≤ { c with env := FLOOR }.env := by decide

/-- A counter at 0, inside and at the length. -/
theorem witness_SweepFallsLinearlyToZero :
    let c := { Channel.atReset testParams with sweepPitch := 100, sweepLen := 3 }
    c.sweepCnt.toNat ≤ c.sweepLen.toNat ∧ c.sweepCnt = 0 ∧ c.sweepLen ≠ 0 ∧
      { c with sweepCnt := 2 }.sweepCnt.toNat ≤ c.sweepLen.toNat ∧ { c with sweepCnt := 3 }.sweepCnt = c.sweepLen := by
  decide

/-- A channel in Release at the floor: whatever the tables hold, its combined volume is at most FLOOR. -/
theorem witness_ChTick_stop :
    let c := { played 2 with state := .release, dur := 0 }
    let e := stepEnvelope c
    e.dur = 0 ∧ Config.params.sustainTable e.noteVel + e.env + trackVolume Config.params Track.defaults ≤ -92544 := by
  have hv := (Config.params_contract.sustain_range 0).2
  have ht := (Config.params_contract.sustain_range 127).2
  refine ⟨rfl, ?_⟩
  show Config.params.sustainTable 0 + -92544 +
    (Config.params.sustainTable 127 + Config.params.sustainTable 127 + 0) ≤ -92544
  omega

/-- A channel that CH_TICK leaves in Attack, so the other case of its statement. -/
theorem witness_ChTick_refresh :
    let e := stepEnvelope { played 2 with atkRate := 255 }
    e.dur ≠ 0 ∧ e.state ≠ .release := by decide

/-- NOTE: an invalid type, a type with a free channel, one with no channel to be had, and a steal. -/
theorem witness_NoteStartsOrDrops :
    let full := { State.reset with channels := Vector.replicate 16 (played 0) }
    let poor := full.modTrk 2 fun x => { x with priority := 63 }
    bits 18 2 0x205C7F3C#32 = 3#2 ∧ instrTypeCode .psg = bits 18 2 0x2024643C#32 ∧
      trackOf 0x2024643C#32 = 2 ∧ arbitrate Config.params State.reset .psg 2 = some 8 ∧
      arbitrate Config.params poor .psg 2 = none ∧ arbitrate Config.params full .psg 2 = some 8 ∧
      (full.ch 8).owner = some 0 := by decide +kernel

/-- The five hypotheses about the arbiter. -/
theorem witness_ArbiterProperties :
    let full := { State.reset with channels := Vector.replicate 16 (played 0) }
    let poor := full.modTrk 2 fun x => { x with priority := 63 }
    let going := poor.setCh 13 { played 0 with state := .release }
    arbitrate Config.params full .psg 2 = some 8 ∧ (full.ch 8).owner = some 0 ∧ (full.ch 8).state ≠ .release ∧
      (State.reset.ch 13).owner = none ∧ (going.ch 13).owner ≠ none ∧ (going.ch 13).state = .release ∧
      (∀ c, (going.ch c).owner ≠ none) ∧ arbitrate Config.params poor .noise 2 = none := by decide +kernel

/-- SET_MASTER: the greatest value it takes, and the least of each kind it refuses. -/
theorem witness_SetMasterAcceptsOrRefuses :
    let refused := fun v : Word => v.getLsbD 31 = true ∨ bits 23 8 v = 0xFF#8 ∨ 0x47800000 < v.toNat
    ¬ refused 0x47800000#32 ∧ ¬ refused 0x00000000#32 ∧ refused 0x47800001#32 ∧ refused 0x80000000#32 ∧
      refused 0x7F800000#32 := by decide

theorem witness_SilentBlockRendersZeros :
    { State.reset with mix := { State.reset.mix with silent := true } }.mix.silent = true := by decide

/-- The longest list of PROCESS commands the statement speaks of, and its last flags. -/
theorem witness_FadeOutEndsInSilence :
    (List.replicate 1920 (true, true)).length ≤ 1920 ∧
      (List.replicate 1920 (true, true)).getLast? = some (true, true) := by
  rw [List.length_replicate, List.getLast?_replicate, if_neg (by decide)]
  exact ⟨Nat.le_refl _, rfl⟩

theorem witness_ContributionsAreBounded :
    { Channel.atReset testParams with pan := 0x40 }.pan.toInt = -64 ∧ (Channel.atReset testParams).volume = 0 := by
  decide

/-- Finite operands at the ends of the range, with and without an exact sum of 0; a finite level; sums. -/
theorem witness_UnityLevelClampsTheSum :
    f32IsFinite 0x7F7FFFFF#32 = true ∧ f32IsFinite 0xFF7FFFFF#32 = true ∧
      f32Units 0x7F7FFFFF#32 + f32Units 0xFF7FFFFF#32 = 0 ∧ f32Units 0x7F7FFFFF#32 - f32Units 0xFF7FFFFF#32 ≠ 0 ∧
      f32IsFinite 0x3F400000#32 = true ∧ (524288 : Int).natAbs < 2 ^ 24 ∧ (-16777215 : Int).natAbs < 2 ^ 24 := by
  decide +kernel

/-- A state just short of a channel's Release. -/
def ending : State := State.reset.setCh 3 { played 2 with dur := 0 }

/-- CH_TICK answers a next state in which the channel has entered Release. -/
theorem witness_OnlyChTickEntersRelease :
    ∃ s', exec (.chTick 0) ending = .next s' ∧ (ending.ch 3).state ≠ .release ∧ (s'.ch 3).state = .release := by
  refine ⟨_, rfl, by decide, ?_⟩
  have hc : (ending.rsvCheck ((0 : BitVec 24) != 0)).ch 3 = { played 2 with dur := 0 } := rfl
  rw [chTickAll_ch, hc]
  show (chTickOwned Config.params _ _).state = _
  rw [chTickOwned]
  dsimp only
  split
  · rename_i h
    exact h.1
  · rfl

/-- NOTE re-enters Attack from Release, the other transition a command makes. -/
theorem witness_EnvelopeTransitionsAreTheTable :
    ∃ s', exec (.note { plainNote with typ := 1 }) (State.reset.setCh 8 { played 2 with owner := none, state := .release }) =
        .next s' ∧ (s'.ch 8).state = .attack := by
  refine ⟨_, rfl, ?_⟩
  decide +kernel

/-- A state whose channel 3 is in Release at the floor. -/
def faded : State := State.reset.setCh 3 { played 2 with state := .release, dur := 0 }

/-- Each of the four commands changes an owner. -/
theorem witness_OwnershipChangesOnlyInFourCommands :
    (∃ s', exec (.note plainNote) State.reset = .next s' ∧ (s'.ch 0).owner ≠ (State.reset.ch 0).owner) ∧
      (∃ s', exec (.chStop 0 3 0) faded = .next s' ∧ (s'.ch 3).owner ≠ (faded.ch 3).owner) ∧
      (∃ s', exec (.trkInit 2 0) faded = .next s' ∧ (s'.ch 3).owner ≠ (faded.ch 3).owner) ∧
      (∃ s', exec (.chTick 0) faded = .next s' ∧ (s'.ch 3).owner ≠ (faded.ch 3).owner) := by
  refine ⟨⟨_, rfl, by decide +kernel⟩, ⟨_, rfl, by decide⟩, ⟨_, rfl, by decide⟩, _, rfl, ?_⟩
  have hc : (faded.rsvCheck ((0 : BitVec 24) != 0)).ch 3 = { played 2 with state := .release, dur := 0 } := rfl
  rw [chTickAll_ch, hc]
  show (chTickOwned Config.params Track.defaults { played 2 with state := .release, dur := 0 }).owner ≠ _
  rw [chTickOwned]
  dsimp only
  rw [if_pos]
  · decide
  · exact ⟨rfl, witness_ChTick_stop.2⟩

/-- A state that meets the invariant and is not the reset state, and its step. -/
theorem witness_StepKeepsTheInvariant :
    let s := { State.reset.setCh 3 (played 2) with stream := [0x43000000#32, 0x47800000#32] }
    s.Inv ∧ ∃ s', step s = .next s' := by
  refine ⟨⟨?_, ⟨by decide, by decide, by decide, by decide, by decide, by decide, by decide, by decide, by decide⟩,
    by decide, ?_, ?_⟩, _, rfl⟩
  · intro c
    have hc : ∀ c, State.reset.ch c = Channel.atReset Config.params := by
      intro c
      simp [State.reset, State.resetWith, State.ch]
    show ChannelOk ((State.reset.setCh 3 (played 2)).ch c)
    rw [State.setCh_ch, hc]
    split <;> constructor <;> decide
  · intro b h
    cases h
  · intro b h
    cases h

/-- The mixer after FADE_OUT and one PROCESS (V12.1) meets the invariant's part for a running fade. -/
theorem witness_StepKeepsTheInvariant_fading :
    let m := { Mixer.atReset with
      fadeDir := .fadingOut, fadePos := 0x3F7FDDDE#32, fadeStep := 0xBA088889#32, fadeLeft := 1919 }
    m.fadeStep = 0xBA088889#32 ∧ m.fadePos = fadePath 0xBA088889#32 0x3F800000#32 (FADE_LEN - m.fadeLeft) ∧
      m.fadePos.toNat ≤ 0x3F800000 := by
  decide +kernel

/-- CLR_STATUS, NOTE and another command each answer a next state. -/
theorem witness_EventBitsAreSticky :
    (∃ s', exec (.clrStatus 0) State.reset.raiseRsv.raiseDrop = .next s') ∧
      (∃ s', exec (.nop 0) State.reset.raiseRsv.raiseDrop = .next s') ∧
      State.reset.raiseRsv.raiseDrop.st.rsv = true ∧ State.reset.raiseRsv.raiseDrop.st.drop = true :=
  ⟨⟨_, rfl⟩, ⟨_, rfl⟩, rfl, rfl⟩

/-- An owned channel with a positive, a zero and a negative duration. -/
theorem witness_DurationCountsDownByTicks :
    (ending.ch 3).owner = some 2 ∧ (ending.ch 3).dur.toInt = 0 ∧ (played 2).dur.toInt = 1 ∧
      ({ played 2 with dur := 0xFFFFFFFF }).dur.toInt = -1 := by decide

end Sys2Proof.Tests
end

section
/-! PROOFS. The invariant of Safety.lean, operation by operation: first the channel's ranges, then the
mixer's, then the whole state's, and last every command, every action of the host and the step. -/

namespace Sys2Proof.Machine

/-! ### The ranges of a channel -/

theorem floor_nonpos : FLOOR ≤ 0 := by decide

theorem toNat_succ_le {a b : BitVec 16} (h : a.toNat < b.toNat) : (a + 1).toNat ≤ b.toNat := by
  bv_omega

/-- R87, R22: an attack step of a level between the floor and 0 stays between the level and 0. -/
theorem attackLevel_range (rate : BitVec 8) {e : Int} (h : e ≤ 0) :
    e ≤ quot ((rate.toNat : Int) * e) 255 ∧ quot ((rate.toNat : Int) * e) 255 ≤ 0 := by
  have hr : (rate.toNat : Int) ≤ 255 := by have := rate.isLt; omega
  have hlow : 255 * e ≤ rate.toNat * e := Int.mul_le_mul_of_nonpos_right hr h
  have hhigh : (rate.toNat : Int) * e ≤ 0 := Int.mul_nonpos_of_nonneg_of_nonpos (Int.natCast_nonneg _) h
  have hq := Int.tdiv_le_tdiv (c := 255) (by decide) hlow
  have hq' := Int.tdiv_le_tdiv (c := 255) (by decide) hhigh
  rw [Int.mul_tdiv_cancel_left _ (by decide)] at hq
  rw [Int.zero_tdiv] at hq'
  exact ⟨hq, hq'⟩

namespace ChannelOk

variable {c : Channel}

theorem stepEnvelope (h : ChannelOk c) : ChannelOk (stepEnvelope c) := by
  obtain ⟨henv, hsus, hdec, hrel, hsweep⟩ := h
  unfold Machine.stepEnvelope
  split
  case h_1 =>
    have hq := attackLevel_range c.atkRate henv.2
    exact ⟨⟨henv.1.trans hq.1, hq.2⟩, hsus, hdec, hrel, hsweep⟩
  case h_2 =>
    dsimp only
    split
    · exact ⟨hsus, hsus, hdec, hrel, hsweep⟩
    · exact ⟨⟨by dsimp only; omega, by dsimp only; omega⟩, hsus, hdec, hrel, hsweep⟩
  case h_3 => exact ⟨henv, hsus, hdec, hrel, hsweep⟩
  case h_4 => exact ⟨⟨le_max_right _ _, max_le (by omega) floor_nonpos⟩, hsus, hdec, hrel, hsweep⟩

theorem releaseCheck (h : ChannelOk c) (w : Bool) : ChannelOk (releaseCheck w c) := by
  rw [releaseCheck_eq]
  exact { h with }

theorem sweepAdvance (h : ChannelOk c) : ChannelOk (sweepAdvance c) := by
  rw [sweepAdvance_eq]
  refine { h with sweep_range := ?_ }
  dsimp only
  split
  · rename_i hs
    exact toNat_succ_le ((sweeping_iff c).1 hs.1).2
  · exact h.sweep_range

theorem stop (h : ChannelOk c) : ChannelOk c.stop := { h with }

theorem refresh (h : ChannelOk c) (P : Params) (x : Track) (vol pitch : Int) :
    ChannelOk (refresh P x vol pitch c) := { h with }

/-- R100: a pass of CH_TICK keeps the ranges. -/
theorem chTickOne (h : ChannelOk c) (P : Params) (tracks : Bank Track) : ChannelOk (chTickOne P tracks c) := by
  unfold Machine.chTickOne
  split
  · exact h
  · rename_i t _
    have hc := (h.stepEnvelope.releaseCheck tracks[t.val].waitNote).sweepAdvance
    unfold chTickOwned
    dsimp only
    split
    · exact hc.stop
    · exact hc.refresh ..

theorem initChannel (h : ChannelOk c) (t : TrackIdx) : ChannelOk (initChannel t c) := by
  unfold Machine.initChannel
  split
  · exact h.stop
  · exact h

theorem tickChannel (h : ChannelOk c) (t : TrackIdx) : ChannelOk (tickChannel t c) := by
  unfold Machine.tickChannel
  split
  · refine { h with sweep_range := ?_ }
    dsimp only [tickSweepCnt]
    split
    · rename_i hs
      exact toNat_succ_le hs.2
    · exact h.sweep_range
  · exact h

/-- R98 with R6 and R8: the levels and rates a NOTE latches come from tables of the same ranges. -/
theorem startedChannel {P : Params} (hP : Contract P) (n : NoteFields) (ty : InstrType) (x : Track) :
    ChannelOk (startedChannel P n ty x) where
  env_range := ⟨le_refl FLOOR, floor_nonpos⟩
  sus_range := hP.sustain_range _
  dec_range := hP.decay_range _
  rel_range := hP.decay_range _
  sweep_range := Nat.zero_le _

theorem atReset (P : Params) : ChannelOk (Channel.atReset P) where
  env_range := ⟨le_refl FLOOR, floor_nonpos⟩
  sus_range := ⟨floor_nonpos, le_refl 0⟩
  dec_range := Nat.zero_le _
  rel_range := Nat.zero_le _
  sweep_range := Nat.zero_le _

theorem oscAdvanceN {chs : Bank Channel} (h : ∀ c : ChanIdx, ChannelOk chs[c.val]) (P : Params) (n : Nat)
    (c : ChanIdx) : ChannelOk (oscAdvanceN P n chs)[c.val] := by
  obtain ⟨q, hq⟩ := oscAdvanceN_at P n chs c
  rw [hq]
  exact { h c with }

end ChannelOk

/-! ### The ranges of the mixer -/

theorem f32IsFinite_of_lt {x : Binary32} (h : x.toNat < 0x7F800000) : f32IsFinite x = true :=
  decide_eq_true (Nat.lt_of_le_of_lt (Nat.mod_le _ _) h)

/-- R108: a position on the path of a fade is, a microframe later, a step further on it. -/
theorem fadePath_advance {left : Nat} (hl : 0 < left) (hr : left ≤ FADE_LEN) {step pos step₀ start : Binary32}
    (h : step = step₀ ∧ pos = fadePath step₀ start (FADE_LEN - left)) :
    step = step₀ ∧ f32Add pos step = fadePath step₀ start (FADE_LEN - (left - 1)) := by
  obtain ⟨rfl, rfl⟩ := h
  refine ⟨rfl, ?_⟩
  rw [← fadePath_succ]
  congr 1
  omega

namespace MixerOk

variable {m : Mixer}

theorem setMute (h : MixerOk m) (mute : Bank Bool) : MixerOk { m with mute := mute } := { h with }

theorem setMaster (h : MixerOk m) {f : Binary32} (hf : f.toNat ≤ 0x47800000) :
    MixerOk { m with master := f } :=
  { h with
    master_range := hf
    all_finite := ⟨f32IsFinite_of_lt (by dsimp only; omega), h.all_finite.2⟩ }

theorem fadeIn (h : MixerOk m) : MixerOk
    { m with fadeDir := .fadingIn, fadePos := 0, fadeLeft := FADE_LEN, fadeStep := fadeStepIn, silent := false } where
  master_range := h.master_range
  left_range := le_refl FADE_LEN
  silent_out := nofun
  idle_left := nofun
  idle_pos := nofun
  in_pos _ := ⟨rfl, by rw [Nat.sub_self]; rfl⟩
  out_pos := nofun
  pos_range := Nat.zero_le _
  all_finite := ⟨h.all_finite.1, rfl, rfl⟩

theorem fadeOut (h : MixerOk m) : MixerOk
    { m with fadeDir := .fadingOut, fadePos := f32One, fadeLeft := FADE_LEN, fadeStep := fadeStepOut } where
  master_range := h.master_range
  left_range := le_refl FADE_LEN
  silent_out _ := rfl
  idle_left := nofun
  idle_pos := nofun
  in_pos := nofun
  out_pos _ := ⟨rfl, by rw [Nat.sub_self]; rfl⟩
  pos_range := le_refl 0x3F800000
  all_finite := ⟨h.all_finite.1, rfl, (by decide : f32IsFinite fadeStepOut = true)⟩

theorem fadeReset (h : MixerOk m) : MixerOk
    { m with fadeDir := .noFade, fadePos := 0, fadeLeft := 0, fadeStep := 0, silent := false } where
  master_range := h.master_range
  left_range := Nat.zero_le _
  silent_out := nofun
  idle_left _ := rfl
  idle_pos _ := ⟨rfl, rfl⟩
  in_pos := nofun
  out_pos := nofun
  pos_range := Nat.zero_le _
  all_finite := ⟨h.all_finite.1, rfl, rfl⟩

theorem atReset : MixerOk Mixer.atReset where
  master_range := by decide
  left_range := by decide
  silent_out := nofun
  idle_left _ := rfl
  idle_pos _ := ⟨rfl, rfl⟩
  in_pos := nofun
  out_pos := nofun
  pos_range := by decide
  all_finite := by decide

/-- R108: a microframe of a running fade keeps the ranges, the fade position by the bounds of its path. -/
theorem fadeAdvance (h : MixerOk m) (hl : 0 < m.fadeLeft) : MixerOk (fadeAdvance m) := by
  have hin := fun hd => fadePath_advance hl h.left_range (h.in_pos hd)
  have hout := fun hd => fadePath_advance hl h.left_range (h.out_pos hd)
  have hrange : (f32Add m.fadePos m.fadeStep).toNat ≤ 0x3F800000 := by
    cases hd : m.fadeDir with
    | noFade => have := h.idle_left hd; omega
    | fadingIn => exact (hin hd).2 ▸ fadePath_in_range _ (Nat.sub_le _ _)
    | fadingOut => exact (hout hd).2 ▸ fadePath_out_range _ (Nat.sub_le _ _)
  exact {
    master_range := h.master_range
    left_range := (Nat.sub_le _ _).trans h.left_range
    silent_out := h.silent_out
    idle_left := fun hd => by have := h.idle_left hd; omega
    idle_pos := fun hd => by have := h.idle_left hd; omega
    in_pos := hin
    out_pos := hout
    pos_range := hrange
    all_finite := ⟨h.all_finite.1, f32IsFinite_of_lt (Nat.lt_of_le_of_lt hrange (by decide)), h.all_finite.2.2⟩ }

/-- R108: what FadeSetup does to the mixer keeps the ranges, whether it is silent, fades, completes a
fade-out or has no fade. -/
theorem fadeSetup (h : MixerOk m) : MixerOk (fadeSetup Config.params m).2 := by
  cases hs : m.silent with
  | true => exact fadeSetup_silent hs ▸ h
  | false =>
    rcases Nat.eq_zero_or_pos m.fadeLeft with hl | hl
    · exact fadeSetup_plain hs hl ▸ h
    · by_cases hc : m.fadeLeft = 1 ∧ m.fadeDir = .fadingOut
      · rw [fadeSetup_completes hs hc.1 hc.2]
        exact { h.fadeAdvance hl with silent_out := fun _ => hc.2 }
      · rw [fadeSetup_moves hs hl hc]
        exact h.fadeAdvance hl

end MixerOk

theorem toNat_le_of_masterRefused_eq_false {f : Binary32} (h : masterRefused f = false) : f.toNat ≤ 0x47800000 := by
  simp only [masterRefused, Bool.or_eq_false_iff, decide_eq_false_iff_not, Nat.not_lt] at h
  exact h.2

/-! ### The record of the last NOTE -/

/-- R29: a record below bit 16 with bit 3 clear has none of the unnamed bits. -/
theorem and_unnamedBits_eq_zero {w : Nat} (hlt : w < 2 ^ 16) (h3 : w / 8 % 2 = 0) :
    BitVec.ofNat 32 w &&& 0xFFFF0008#32 = 0#32 := by
  have hmask : ∀ i < 32, (0xFFFF0008#32).getLsbD i = true → i = 3 ∨ 16 ≤ i := by decide
  apply BitVec.eq_of_getLsbD_eq
  intro i hi
  rw [BitVec.getLsbD_and, BitVec.getLsbD_zero, Bool.and_eq_false_imp, BitVec.getLsbD_ofNat]
  intro hw
  by_contra hm
  rw [Bool.and_eq_true] at hw
  rcases hmask i hi (by simpa using hm) with rfl | h16
  · have := hw.2
    rw [Nat.testBit_eq_decide_div_mod_eq, decide_eq_true_eq] at this
    omega
  · rw [Nat.testBit_lt_two_pow (Nat.lt_of_lt_of_le hlt (Nat.pow_le_pow_right (by decide) h16))] at hw
    exact absurd hw.2 (by decide)

theorem lastNoteDropped_unnamedBits (t : TrackIdx) : lastNoteDropped t &&& 0xFFFF0008#32 = 0#32 :=
  and_unnamedBits_eq_zero (by omega) (by omega)

theorem lastNoteTaken_unnamedBits (t : TrackIdx) (c : ChanIdx) (prev : Option TrackIdx) :
    lastNoteTaken t c prev &&& 0xFFFF0008#32 = 0#32 := by
  cases prev with
  | none => exact and_unnamedBits_eq_zero (by simp; omega) (by simp; omega)
  | some u => exact and_unnamedBits_eq_zero (by simp; omega) (by simp; omega)

/-! ### The invariant under each operation -/

/-- R30, R113: a rendered buffer has four bytes for each of SPB frames. -/
theorem renderBuffer_length (P : Params) (s : State) : (renderBuffer P s).1.length = 4 * P.spb :=
  renderFrames_length ..

theorem forall_mem_emitIf {p : List Byte → Prop} {q : List (List Byte)} {buf : List Byte} (flag : Bool)
    (hq : ∀ b ∈ q, p b) (hbuf : p buf) : ∀ b ∈ emitIf flag buf q, p b := by
  intro b hb
  unfold emitIf at hb
  split at hb
  · rcases List.mem_append.1 hb with hb | hb
    · exact hq b hb
    · exact List.mem_singleton.1 hb ▸ hbuf
  · exact hq b hb

namespace State.Inv

variable {s : State}

theorem consume (h : s.Inv) (rest : List Word) : (s.consume rest).Inv := { h with }

theorem raiseUnk (h : s.Inv) : s.raiseUnk.Inv := { h with }

theorem raiseRsv (h : s.Inv) : s.raiseRsv.Inv := { h with }

theorem rsvCheck (h : s.Inv) (bad : Bool) : (s.rsvCheck bad).Inv := { h with }

theorem clearStatus (h : s.Inv) : ({ s with st := Status.clear } : State).Inv := { h with lastNote := BitVec.zero_and }

theorem modTrk (h : s.Inv) (t : TrackIdx) (f : Track → Track) : (s.modTrk t f).Inv := { h with }

theorem modMix (h : s.Inv) {f : Mixer → Mixer} (hf : MixerOk (f s.mix)) : (s.modMix f).Inv := { h with mix := hf }

theorem trackInit (h : s.Inv) (t : TrackIdx) : (trackInit t s).Inv :=
  { h with channels := fun c => trackInit_ch s t c ▸ (h.channels c).initChannel t }

theorem trackTick (h : s.Inv) (t : TrackIdx) : (trackTick t s).Inv where
  channels c := trackTick_ch s t c ▸ (h.channels c).tickChannel t
  mix := trackTick_mix s t ▸ h.mix
  lastNote := trackTick_st s t ▸ h.lastNote
  audioBufs := trackTick_audioQ s t ▸ h.audioBufs
  recBufs := trackTick_recQ s t ▸ h.recBufs

theorem noteDrop (h : s.Inv) (t : TrackIdx) : (noteDrop t s).Inv :=
  { h with lastNote := lastNoteDropped_unnamedBits t }

theorem noteTake {P : Params} (hP : Contract P) (h : s.Inv) (n : NoteFields) (ty : InstrType) (c : ChanIdx) :
    (noteTake P n ty c s).Inv where
  channels d := by
    rw [noteTake_ch]
    split
    · exact ChannelOk.startedChannel hP n ty _
    · exact h.channels d
  mix := noteTake_mix P s n ty c ▸ h.mix
  lastNote := by
    rw [noteTake_st]
    exact lastNoteTaken_unnamedBits n.t c _
  audioBufs := noteTake_audioQ P s n ty c ▸ h.audioBufs
  recBufs := noteTake_recQ P s n ty c ▸ h.recBufs

/-- R98: NOTE keeps the invariant whether it is invalid, dropped or given a channel. -/
theorem noteStart {P : Params} (hP : Contract P) (h : s.Inv) (n : NoteFields) : (noteStart P n s).Inv := by
  rcases noteStart_cases P s n with ⟨_, he⟩ | ⟨_, _, _, he⟩ | ⟨ty, c, _, _, he⟩
  · exact he ▸ h.raiseRsv.noteDrop n.t
  · exact he ▸ h.noteDrop n.t
  · exact he ▸ h.noteTake hP n ty c

theorem chStopEffect (h : s.Inv) (c : ChanIdx) : (chStopEffect c s).Inv where
  channels d := by
    rw [chStopEffect_ch]
    split
    · exact (h.channels c).stop
    · exact h.channels d
  mix := chStopEffect_mix s c ▸ h.mix
  lastNote := chStopEffect_st s c ▸ h.lastNote
  audioBufs := chStopEffect_audioQ s c ▸ h.audioBufs
  recBufs := chStopEffect_recQ s c ▸ h.recBufs

theorem chTickAll (h : s.Inv) (P : Params) : (chTickAll P s).Inv :=
  { h with channels := fun c => chTickAll_ch P s c ▸ (h.channels c).chTickOne P s.tracks }

theorem emulateBuffer (h : s.Inv) (P : Params) : (emulateBuffer P s).Inv :=
  { h with channels := fun c => ChannelOk.oscAdvanceN h.channels P P.spb c }

/-- R113: PROCESS keeps the invariant: only oscillators advance, and the buffer it queues has SPB frames. -/
theorem processBuffer (h : s.Inv) (toRec toOut : Bool) : (processBuffer Config.params toRec toOut s).Inv where
  channels c := by
    rw [State.ch_eq, processBuffer_channels]
    exact ChannelOk.oscAdvanceN h.channels _ _ c
  mix := h.mix.fadeSetup
  lastNote := h.lastNote
  audioBufs := forall_mem_emitIf toOut h.audioBufs (renderBuffer_length _ s)
  recBufs := forall_mem_emitIf toRec h.recBufs (renderBuffer_length _ s)

/-! ### Commands, the host and the step -/

/-- Every command answers a next state, and one that meets the invariant. -/
theorem exec (h : s.Inv) (i : Instr) : ∃ s', exec i s = .next s' ∧ s'.Inv := by
  cases i with
  | nop rsv => exact ⟨_, rfl, h.rsvCheck _⟩
  | trkInit t rsv => exact ⟨_, rfl, (h.rsvCheck _).trackInit t⟩
  | trkVolume t | trkExpression t | trkPriority t | trkPan t | trkTranspose t | trkPitchbend t | trkBendrange t
  | trkLfodepth t | trkLfospeed t | trkLforange t | trkLfodelay t | trkAttack t | trkDecay t | trkSustain t
  | trkRelease t | trkWaitnote t => exact ⟨_, rfl, (h.rsvCheck _).modTrk t _⟩
  | trkLfotype t rsv k =>
    show ∃ s', execTrkLfotype t rsv k s = .next s' ∧ s'.Inv
    unfold execTrkLfotype
    split
    · exact ⟨_, rfl, (h.rsvCheck _).raiseRsv⟩
    · exact ⟨_, rfl, (h.rsvCheck _).modTrk t _⟩
  | trkMute t rsv b => exact ⟨_, rfl, (h.rsvCheck _).modMix (h.mix.setMute _)⟩
  | trkTick t rsv => exact ⟨_, rfl, (h.rsvCheck _).trackTick t⟩
  | note n => exact ⟨_, rfl, (h.rsvCheck _).noteStart Config.params_contract n⟩
  | chStop hi c lo => exact ⟨_, rfl, (h.rsvCheck _).chStopEffect c⟩
  | chTick rsv => exact ⟨_, rfl, (h.rsvCheck _).chTickAll _⟩
  | process rsv toRec toOut => exact ⟨_, rfl, (h.rsvCheck _).processBuffer toRec toOut⟩
  | emulate rsv => exact ⟨_, rfl, (h.rsvCheck _).emulateBuffer _⟩
  | fadeIn rsv => exact ⟨_, rfl, (h.rsvCheck _).modMix h.mix.fadeIn⟩
  | fadeOut rsv => exact ⟨_, rfl, (h.rsvCheck _).modMix h.mix.fadeOut⟩
  | fadeReset rsv => exact ⟨_, rfl, (h.rsvCheck _).modMix h.mix.fadeReset⟩
  | setMaster rsv f =>
    show ∃ s', execSetMaster rsv f s = .next s' ∧ s'.Inv
    unfold execSetMaster
    split
    · exact ⟨_, rfl, (h.rsvCheck _).raiseRsv⟩
    · rename_i hf
      have hf := toNat_le_of_masterRefused_eq_false (Bool.eq_false_iff.2 hf)
      exact ⟨_, rfl, (h.rsvCheck _).modMix (h.mix.setMaster hf)⟩
  | clrStatus rsv => exact ⟨_, rfl, h.clearStatus.rsvCheck _⟩

/-- R131: reset meets the invariant, with whatever the host has seen and will do. -/
theorem hostReset (s : State) : (hostReset Config.params s).Inv where
  channels c := by
    show ChannelOk (Vector.replicate 16 (Channel.atReset Config.params))[c.val]
    rw [Vector.getElem_replicate]
    exact ChannelOk.atReset _
  mix := MixerOk.atReset
  lastNote := BitVec.zero_and
  audioBufs := nofun
  recBufs := nofun

theorem windowWrite (h : s.Inv) (off : Nat) (data : Word) : (windowWrite off data s).Inv := by
  unfold Machine.windowWrite
  split
  · exact { h with }
  · exact h

theorem windowRead (h : s.Inv) (off : Nat) : (windowRead off s).Inv := { h with }

/-- R129: an action of the host that is not refused keeps the invariant. -/
theorem hostAct {s' : State} (h : s.Inv) (a : HostAction) (hs : hostAct Config.params a s = .next s') : s'.Inv := by
  cases a with
  | write addr width data =>
    dsimp only [Machine.hostAct] at hs
    split at hs
    · exact Host.Outcome.next.inj hs ▸ h.windowWrite _ _
    · cases hs
  | read addr width =>
    dsimp only [Machine.hostAct] at hs
    split at hs
    · exact Host.Outcome.next.inj hs ▸ h.windowRead _
    · cases hs
  | takeAudio =>
    cases hs
    exact { h with audioBufs := fun b hb => h.audioBufs b (List.mem_of_mem_tail hb) }
  | takeRec =>
    cases hs
    exact { h with recBufs := fun b hb => h.recBufs b (List.mem_of_mem_tail hb) }
  | reset =>
    cases hs
    exact hostReset s

/-- R139: a step is a whole command, an unknown opcode, or an action of the host. -/
theorem step {s' : State} (h : s.Inv) (hs : step s = .next s') : s'.Inv := by
  unfold Machine.step at hs
  split at hs
  · rename_i i rest _
    obtain ⟨s₁, he, h₁⟩ := (h.consume rest).exec i
    cases he.symm.trans hs
    exact h₁
  · rename_i op rest _
    cases hs
    exact (h.consume rest).raiseUnk
  · unfold hostStep at hs
    split at hs
    · cases hs
      exact h
    · rename_i a later _
      have hl : ({ s with host := later } : State).Inv := { h with }
      exact hl.hostAct a hs

end State.Inv

/-- Settles O60: the invariant is kept by every command, unknown opcode and action of the host. -/
theorem stepKeepsTheInvariant : Obligations.StepKeepsTheInvariant := by
  unfold Obligations.StepKeepsTheInvariant
  exact fun _ _ h hs => h.step hs

end Sys2Proof.Machine
end

section
/-! PROOFS. What the arbiter answers (R96, R97), from what its scan finds. -/

namespace Sys2Proof.Machine

variable {P : Params} {s : State} {ty : InstrType} {t : TrackIdx}

/-- R95: free channels score below all others. -/
theorem score_le_neg_two_iff (s : State) (c : ChanIdx) : score s c ≤ -2 ↔ (s.ch c).owner = none := by
  unfold score
  cases (s.ch c).owner with
  | none => simp
  | some u => simp only [reduceCtorEq, iff_false]; split <;> omega

/-- R95: free and releasing channels score below all sounding ones. -/
theorem score_lt_zero_iff (s : State) (c : ChanIdx) :
    score s c < 0 ↔ (s.ch c).owner = none ∨ (s.ch c).state = .release := by
  unfold score
  cases (s.ch c).owner with
  | none => simp
  | some u => dsimp only; split <;> simp [*]

/-- R95: a sounding channel scores its owner's priority. -/
theorem score_of_sounding {c : ChanIdx} {u : TrackIdx} (ho : (s.ch c).owner = some u)
    (hr : (s.ch c).state ≠ .release) : score s c = (s.trk u).priority.toNat := by
  simp [score, ho, hr]

theorem Before.score_le {b c : ChanIdx} (h : Before s b c) : score s b ≤ score s c := by
  rcases h with h | ⟨h, _⟩
  · exact h.le
  · exact h.le

/-- R96: the channel taken is in the mask, scores no more than the requester's priority, and no channel of
the mask scores less. -/
theorem arbitrate_some {b : ChanIdx} (h : arbitrate P s ty t = some b) :
    maskHas P ty b = true ∧ score s b ≤ (s.trk t).priority.toNat ∧
      ∀ c, maskHas P ty c = true → score s b ≤ score s c := by
  unfold arbitrate at h
  cases hs : scan P s ty with
  | none => simp [hs] at h
  | some b' =>
    obtain ⟨hmem, hfirst⟩ := scan_some P s ty hs
    simp only [hs] at h
    split at h
    · cases h
    · rename_i hle
      cases h
      exact ⟨hmem, not_lt.1 hle, fun c hc => (hfirst c hc).score_le⟩

/-- R96: with no channel taken every channel of the mask scores more than the requester's priority. -/
theorem arbitrate_none (h : arbitrate P s ty t = none) {c : ChanIdx} (hc : maskHas P ty c = true) :
    ((s.trk t).priority.toNat : Int) < score s c := by
  unfold arbitrate at h
  cases hs : scan P s ty with
  | none => exact absurd hc (by simp [scan_none P s ty hs c])
  | some b =>
    simp only [hs] at h
    split at h
    · rename_i hlt
      exact hlt.trans_le ((scan_some P s ty hs).2 c hc).score_le
    · cases h

/-- R96: a channel of the mask that scores no more than the requester's priority makes the arbiter take one
that scores no more than it. -/
theorem arbitrate_of_score_le {c : ChanIdx} (hc : maskHas P ty c = true)
    (hle : score s c ≤ (s.trk t).priority.toNat) :
    ∃ b, arbitrate P s ty t = some b ∧ maskHas P ty b = true ∧ score s b ≤ score s c := by
  cases ha : arbitrate P s ty t with
  | none => exact absurd (arbitrate_none ha hc) (not_lt.2 hle)
  | some b =>
    obtain ⟨hb, _, hleast⟩ := arbitrate_some ha
    exact ⟨b, rfl, hb, hleast c hc⟩

/-- R5: the channels of the default masks. -/
def inDefaultMask (ty : InstrType) (c : ChanIdx) : Prop :=
  match ty with
  | .pcm => True
  | .psg => 8 ≤ c.val ∧ c.val ≤ 13
  | .noise => 14 ≤ c.val

theorem maskHas_params_iff (ty : InstrType) (c : ChanIdx) :
    maskHas Config.params ty c = true ↔ inDefaultMask ty c := by
  unfold inDefaultMask
  cases ty <;> revert c <;> decide

/-- Settles O41, from the score of the channel the arbiter takes. -/
theorem arbiterProperties : Obligations.ArbiterProperties := by
  unfold Obligations.ArbiterProperties
  intro s ty t
  show (∀ c, arbitrate _ s ty t = some c → inDefaultMask ty c) ∧ _ ∧
    ((∃ c, inDefaultMask ty c ∧ _) → _) ∧
    ((∃ c, inDefaultMask ty c ∧ _) → (∀ c, inDefaultMask ty c → _) → _) ∧
    (_ → ∀ c, inDefaultMask ty c → _)
  simp only [← maskHas_params_iff]
  refine ⟨fun c hc => (arbitrate_some hc).1, ?_, ?_, ?_, ?_⟩
  · intro c u hc ho hr
    have hle := (arbitrate_some hc).2.1
    rw [score_of_sounding ho hr] at hle
    exact_mod_cast hle
  · rintro ⟨c, hc, ho⟩
    have hfree := (score_le_neg_two_iff s c).2 ho
    obtain ⟨b, hb, _, hle⟩ := arbitrate_of_score_le (s := s) (t := t) hc (by omega)
    exact ⟨b, hb, (score_le_neg_two_iff s b).1 (hle.trans hfree)⟩
  · rintro ⟨c, hc, _, hr⟩ hbusy
    have hlow := (score_lt_zero_iff s c).2 (.inr hr)
    obtain ⟨b, hb, hmem, hle⟩ := arbitrate_of_score_le (s := s) (t := t) hc (by omega)
    exact ⟨b, hb, ((score_lt_zero_iff s b).1 (hle.trans_lt hlow)).resolve_left (hbusy b hmem)⟩
  · intro ha c hc
    have hlt := arbitrate_none ha hc
    have hsound := mt (score_lt_zero_iff s c).2 (by omega)
    obtain ⟨hbusy, hr⟩ := not_or.1 hsound
    obtain ⟨u, hu⟩ := Option.ne_none_iff_exists'.1 hbusy
    rw [score_of_sounding hu hr] at hlt
    exact ⟨u, hu, hr, by exact_mod_cast hlt⟩

end Sys2Proof.Machine
end

section
/-! PROOFS. The binary32 operations on finite operands (R17) and the output sample (R112): each operation is
one rounding of its exact result, and the sample is that rounding clamped and truncated. -/

namespace Sys2Proof.Machine

/-! ### Classes and order -/

theorem f32IsNaN_of_finite {x : Binary32} (h : f32IsFinite x = true) : f32IsNaN x = false :=
  decide_eq_false (not_lt.2 (of_decide_eq_true h).le)

theorem f32IsInf_of_finite {x : Binary32} (h : f32IsFinite x = true) : f32IsInf x = false :=
  decide_eq_false (of_decide_eq_true h).ne

/-- Units and keys order values alike: the units of a magnitude grow with it, and both are 0 together. -/
theorem f32Units_lt_iff (x y : Binary32) : f32Units x < f32Units y ↔ f32Key x < f32Key y := by
  have h0 : magUnits 0 = 0 := rfl
  have mono : ∀ a b, magUnits a < magUnits b ↔ a < b := fun _ _ => magUnits_strictMono.lt_iff_lt
  have hx := mono 0 (f32Mag x)
  have hy := mono 0 (f32Mag y)
  have hxy := mono (f32Mag x) (f32Mag y)
  have hyx := mono (f32Mag y) (f32Mag x)
  rw [f32Units_eq, f32Units_eq, f32Key, f32Key]
  split <;> split <;> omega

theorem f32Lt_of_finite {x y : Binary32} (hx : f32IsFinite x = true) (hy : f32IsFinite y = true) :
    f32Lt x y = decide (f32Units x < f32Units y) := by
  rw [f32Lt, f32IsNaN_of_finite hx, f32IsNaN_of_finite hy, decide_eq_decide.2 (f32Units_lt_iff x y)]
  rfl

/-! ### Turning the sign over -/

theorem f32Sign_neg (x : Binary32) : f32Sign (f32Neg x) = !f32Sign x := by
  simp [f32Sign, f32Neg]

theorem f32Mag_neg (x : Binary32) : f32Mag (f32Neg x) = f32Mag x := by
  unfold f32Mag f32Neg
  rw [BitVec.toNat_xor, Nat.xor_mod_two_pow]
  simp

theorem f32Units_neg (x : Binary32) : f32Units (f32Neg x) = -f32Units x := by
  rw [f32Units_eq, f32Units_eq, f32Sign_neg, f32Mag_neg]
  cases f32Sign x <;> simp

theorem f32IsFinite_neg (x : Binary32) : f32IsFinite (f32Neg x) = f32IsFinite x := by
  rw [f32IsFinite, f32IsFinite, f32Mag_neg]

/-! ### The operations on finite operands -/

theorem f32Round_zero (neg : Bool) (den : Nat) : f32Round neg 0 den = f32Pattern neg 0 := by
  simp [f32Round]

/-- R17: rounding an integer's magnitude with its sign gives the nearest value. -/
theorem isNearest_f32Round {neg : Bool} {n : Int} (h : (neg = true → n ≤ 0) ∧ (neg = false → 0 ≤ n)) {den : Nat}
    (hd : 0 < den) : IsNearest (f32Round neg n.natAbs den) n den := by
  have hn : (if neg then -(n.natAbs : Int) else n.natAbs) = n := by
    cases neg with
    | true => exact neg_eq_iff_eq_neg.2 (Int.ofNat_natAbs_of_nonpos (h.1 rfl))
    | false => exact Int.natAbs_of_nonneg (h.2 rfl)
  simpa only [hn] using f32Round_nearest neg n.natAbs den hd

section
variable {x y : Binary32} (hx : f32IsFinite x = true) (hy : f32IsFinite y = true)
include hx hy

/-- `f32_add` rounds the exact sum once; only the sign of an exact zero has a rule of its own. -/
theorem f32Add_of_finite : f32Add x y =
    f32Round (if f32Units x + f32Units y = 0 then f32Sign x && f32Sign y else decide (f32Units x + f32Units y < 0))
      (f32Units x + f32Units y).natAbs 1 := by
  simp only [f32Add, f32IsNaN_of_finite hx, f32IsNaN_of_finite hy, f32IsInf_of_finite hx, f32IsInf_of_finite hy,
    Bool.or_self, Bool.false_eq_true, if_false]
  split
  · rename_i h
    rw [h, Int.natAbs_zero, f32Round_zero]
  · rfl

theorem f32Add_nearest : IsNearest (f32Add x y) (f32Units x + f32Units y) 1 := by
  rw [f32Add_of_finite hx hy]
  apply isNearest_f32Round _ Nat.one_pos
  split <;> simp <;> omega

theorem f32Add_zero (h : f32Units x + f32Units y = 0) :
    f32Add x y = if f32Sign x && f32Sign y then 0x80000000#32 else 0x00000000#32 := by
  rw [f32Add_of_finite hx hy, if_pos h, h, Int.natAbs_zero, f32Round_zero]
  cases f32Sign x && f32Sign y <;> rfl

theorem f32Mul_of_finite :
    f32Mul x y = f32Round (f32Sign x != f32Sign y) (f32Units x * f32Units y).natAbs (2 ^ 149) := by
  simp only [f32Mul, f32IsNaN_of_finite hx, f32IsNaN_of_finite hy, f32IsInf_of_finite hx, f32IsInf_of_finite hy,
    Bool.or_self, Bool.false_eq_true, if_false]

theorem f32Mul_nearest : IsNearest (f32Mul x y) (f32Units x * f32Units y) (2 ^ 149) := by
  rw [f32Mul_of_finite hx hy]
  apply isNearest_f32Round _ (by positivity)
  rw [f32Units_eq x, f32Units_eq y]
  have h := Int.mul_nonneg (Int.natCast_nonneg (magUnits (f32Mag x))) (Int.natCast_nonneg (magUnits (f32Mag y)))
  cases f32Sign x <;> cases f32Sign y <;> simpa using h

theorem f32Sign_mul : f32Sign (f32Mul x y) = (f32Sign x != f32Sign y) := by
  rw [f32Mul_of_finite hx hy, f32Sign_round _ _ _ (by positivity)]

end

theorem f32Recip_nearest {n : Nat} (h : 0 < n) : IsNearest (f32Recip n) (2 ^ 149) n :=
  f32Round_nearest false (2 ^ 149) n h

/-! ### Exact results -/

/-- R17: a value that is a binary32 number rounds to it. -/
theorem IsNearest.units_eq {r y : Binary32} {n : Int} (h : IsNearest r n 1) (hy : f32IsFinite y = true)
    (hn : f32Units y = n) (hlt : n.natAbs < (2 ^ 25 - 1) * 2 ^ 252) : f32IsFinite r = true ∧ f32Units r = n := by
  unfold IsNearest at h
  rw [if_neg (by omega)] at h
  obtain ⟨hf, hbest⟩ := h
  have hle := (hbest y hy).1
  dsimp only at hle
  exact ⟨hf, by omega⟩

/-- R17: numerator and denominator scaled alike are the same number. -/
theorem IsNearest.of_scaled {r : Binary32} {num : Int} {den c : Nat} (hc : 0 < c)
    (h : IsNearest r (num * c) (den * c)) : IsNearest r num den := by
  have herr : ∀ u : Int, (u * (den * c : Nat) - num * c).natAbs = (u * den - num).natAbs * c := by
    intro u
    rw [← Int.natAbs_natCast c, ← Int.natAbs_mul, Int.natAbs_natCast]
    congr 1
    push_cast
    ring
  have hover : (2 ^ 25 - 1) * 2 ^ 252 * (den * c) ≤ (num * c).natAbs ↔ (2 ^ 25 - 1) * 2 ^ 252 * den ≤ num.natAbs := by
    rw [Int.natAbs_mul, Int.natAbs_natCast, ← Nat.mul_assoc, Nat.mul_le_mul_right_iff hc]
  have hsign : num * c < 0 ↔ num < 0 := by
    rw [← not_le, mul_nonneg_iff_of_pos_right (by exact_mod_cast hc), not_le]
  unfold IsNearest at h ⊢
  simpa only [herr, hover, hsign, Nat.mul_le_mul_right_iff hc, Nat.mul_left_inj hc.ne'] using h

/-- R16, R17: an integer of magnitude below 2^24 is a binary32 number. -/
theorem f32OfInt_exact {n : Int} (h : n.natAbs < 2 ^ 24) :
    f32IsFinite (f32OfInt n) = true ∧ f32Units (f32OfInt n) = n * 2 ^ 149 := by
  obtain ⟨k, q, r, m, hn, hr, hq, hk, hm, hf⟩ := f32Round_steps (decide (n < 0)) (n.natAbs * 2 ^ 149) 1 Nat.one_pos
  rw [Nat.one_mul] at hn hr hm
  have hk149 : k ≤ 149 := by
    by_contra hlt
    have h1 : 2 ^ 150 * 2 ^ 23 ≤ 2 ^ k * q := Nat.mul_le_mul (Nat.pow_le_pow_right (by decide) (by omega)) (by omega)
    omega
  have hr0 : r = 0 := by
    have hdvd : 2 ^ k ∣ 2 ^ k * q + r := hn ▸ (Nat.pow_dvd_pow 2 hk149).mul_left _
    exact Nat.eq_zero_of_dvd_of_lt ((Nat.dvd_add_right (Nat.dvd_mul_right _ _)).1 hdvd) hr
  have hmq : m = q := by
    have : 0 < 2 ^ k := by positivity
    omega
  have hlt : k * 2 ^ 23 + q < 0x7F800000 := by omega
  rw [f32OfInt, hf, hmq, Nat.min_eq_left hlt.le]
  have hM : k * 2 ^ 23 + q < 2 ^ 31 := by omega
  refine ⟨by rw [f32IsFinite, f32Mag_pattern _ hM]; exact decide_eq_true hlt, ?_⟩
  rw [f32Units_pattern _ hM, magUnits_split hq.le hk, Nat.mul_comm q, show 2 ^ k * q = n.natAbs * 2 ^ 149 by omega]
  simp only [decide_eq_true_eq]
  split <;> omega

/-! ### The output sample -/

theorem f32Clamp_of_finite {x lo hi : Binary32} (hx : f32IsFinite x = true) (hlo : f32IsFinite lo = true)
    (hhi : f32IsFinite hi = true) (hle : f32Units lo ≤ f32Units hi) :
    f32IsFinite (f32Clamp x lo hi) = true ∧
      f32Units (f32Clamp x lo hi) = max (f32Units lo) (min (f32Units hi) (f32Units x)) := by
  rw [f32Clamp, f32Lt_of_finite hx hlo, f32Lt_of_finite hhi hx]
  simp only [decide_eq_true_eq]
  split
  · exact ⟨hlo, by omega⟩
  · split
    · exact ⟨hhi, by omega⟩
    · exact ⟨hx, by omega⟩

/-- R112: truncation of a value clamped to 16 bits is the clamped truncation. -/
theorem tdiv_clamp (u : Int) {d : Int} (hd : 0 < d) :
    (max (-32768 * d) (min (32767 * d) u)).tdiv d = max (-32768) (min 32767 (u.tdiv d)) := by
  have mono : Monotone fun a : Int => a.tdiv d := fun _ _ => Int.tdiv_le_tdiv hd
  have hlo : (-32768 * d).tdiv d = -32768 := Int.mul_tdiv_cancel _ hd.ne'
  have hhi : (32767 * d).tdiv d = 32767 := Int.mul_tdiv_cancel _ hd.ne'
  calc _ = max ((-32768 * d).tdiv d) (min ((32767 * d).tdiv d) (u.tdiv d)) := by rw [mono.map_max, mono.map_min]
    _ = _ := by rw [hlo, hhi]

theorem toInt_clamped16 (x : Int) :
    (BitVec.ofInt 16 (max (-32768) (min 32767 x))).toInt = max (-32768) (min 32767 x) := by
  rw [BitVec.toInt_ofInt, Int.bmod_eq_of_le] <;> omega

theorem f32Units_sampleMin : f32Units 0xC7000000#32 = -32768 * 2 ^ 149 := by decide

theorem f32Units_sampleMax : f32Units 0x46FFFE00#32 = 32767 * 2 ^ 149 := by decide

/-- R112: the sample of a finite product is its integer part, clamped to 16 bits. -/
theorem out16_of_finite {s : Int} {level : Binary32} (h : f32IsFinite (f32Mul (f32OfInt s) level) = true) :
    (out16 s level).toInt =
      max (-32768) (min 32767 ((f32Units (f32Mul (f32OfInt s) level)).tdiv (2 ^ 149))) := by
  obtain ⟨hf, hu⟩ := f32Clamp_of_finite h (lo := 0xC7000000#32) (hi := 0x46FFFE00#32) (by decide) (by decide)
    (by rw [f32Units_sampleMin, f32Units_sampleMax]; decide)
  rw [f32Units_sampleMin, f32Units_sampleMax] at hu
  rw [out16, f32IsNaN_of_finite hf, if_neg (by decide), f32Trunc, hu, tdiv_clamp _ (by decide), toInt_clamped16]

/-- R112: the sample of an infinite product is the end of the 16-bit range on its side. -/
theorem out16_of_infinite {s : Int} {level : Binary32} {neg : Bool}
    (h : f32Mul (f32OfInt s) level = f32Pattern neg 0x7F800000) :
    (out16 s level).toInt = if neg then -32768 else 32767 := by
  have hclamp : f32Clamp (f32Pattern neg 0x7F800000) 0xC7000000#32 0x46FFFE00#32 =
      if neg then 0xC7000000#32 else 0x46FFFE00#32 := by cases neg <;> decide
  rw [out16, h, hclamp]
  cases neg <;> decide

/-- R112: a mixed sum times a finite level is one rounding of the exact product. -/
theorem f32Mul_ofInt_nearest {n : Int} {level : Binary32} (hn : n.natAbs < 2 ^ 24) (hl : f32IsFinite level = true) :
    IsNearest (f32Mul (f32OfInt n) level) (n * f32Units level) 1 := by
  obtain ⟨hf, hu⟩ := f32OfInt_exact hn
  have h := f32Mul_nearest hf hl
  rw [hu, Int.mul_right_comm] at h
  exact IsNearest.of_scaled (c := 2 ^ 149) (by positivity) (by simpa using h)

theorem IsNearest.eq_infinity {r : Binary32} {num : Int} {den : Nat} (h : IsNearest r num den)
    (hf : f32IsFinite r = false) : r = f32Pattern (decide (num < 0)) 0x7F800000 := by
  unfold IsNearest at h
  split at h
  · exact h
  · exact absurd h.1 (by simp [hf])

/-- R112: the sample at a finite level, from the product rounded once. -/
theorem out16_of_level {n : Int} {level : Binary32} (hn : n.natAbs < 2 ^ 24) (hl : f32IsFinite level = true) :
    (out16 n level).toInt =
      if f32IsFinite (f32Mul (f32OfInt n) level) then
        max (-32768) (min 32767 ((f32Units (f32Mul (f32OfInt n) level)).tdiv (2 ^ 149)))
      else if n * f32Units level < 0 then -32768 else 32767 := by
  split
  · exact out16_of_finite ‹_›
  · rename_i hf
    rw [out16_of_infinite ((f32Mul_ofInt_nearest hn hl).eq_infinity (Bool.eq_false_iff.2 hf))]
    simp only [decide_eq_true_eq]

/-- R112: at level 1.0 the product is the sum itself. -/
theorem out16_of_unity {n : Int} (hn : n.natAbs < 2 ^ 24) :
    (out16 n 0x3F800000#32).toInt = max (-32768) (min 32767 n) := by
  have hone : f32Units 0x3F800000#32 = 2 ^ 149 := by decide
  obtain ⟨hf, hu⟩ := f32OfInt_exact hn
  have hp := f32Mul_ofInt_nearest (level := 0x3F800000#32) hn (by decide)
  rw [hone] at hp
  obtain ⟨hpf, hpu⟩ := hp.units_eq hf hu (by omega)
  rw [out16_of_finite hpf, hpu, Int.mul_tdiv_cancel _ (by decide)]

/-- Settles O51, from the rounding lemmas above. -/
theorem unityLevelClampsTheSum : Obligations.UnityLevelClampsTheSum := by
  unfold Obligations.UnityLevelClampsTheSum
  refine ⟨fun x y hx hy => ?_, fun n => f32Recip_nearest, fun n level hn hl => ?_, fun n => out16_of_unity⟩
  · have hny : f32IsFinite (f32Neg y) = true := f32IsFinite_neg y ▸ hy
    have hsub : f32Units x - f32Units y = f32Units x + f32Units (f32Neg y) := by rw [f32Units_neg, Int.sub_eq_add_neg]
    rw [hsub, ← f32Sign_neg y]
    exact ⟨f32Add_nearest hx hy, f32Add_zero hx hy, f32Add_nearest hx hny, f32Add_zero hx hny,
      f32Mul_nearest hx hy, f32Sign_mul hx hy, f32Lt_of_finite hx hy⟩
  · obtain ⟨hf, hu⟩ := f32OfInt_exact hn
    exact ⟨hf, hu, _, f32Mul_ofInt_nearest hn hl, out16_of_level hn hl⟩

end Sys2Proof.Machine
end

section
/-! PROOFS. The state around the commands (10_state): the words a command takes from the stream, what every
command leaves to the stream and the host, the status registers no command reads, buffer removal and reset. -/

namespace Sys2Proof

/-! ### The words of a command -/

/-- R51 to R53: the round trip, one law per command. -/
theorem decode_encode (i : Instr) (rest : List Word) : decode (encode i ++ rest) = .command i rest := by
  cases i with
  | nop r => exact Laws.RoundTrip.nop r rest
  | trkInit t r => exact Laws.RoundTrip.trkInit t r rest
  | trkVolume t r v => exact Laws.RoundTrip.trkVolume t r v rest
  | trkExpression t r v => exact Laws.RoundTrip.trkExpression t r v rest
  | trkPriority t r v => exact Laws.RoundTrip.trkPriority t r v rest
  | trkPan t r v => exact Laws.RoundTrip.trkPan t r v rest
  | trkTranspose t r v => exact Laws.RoundTrip.trkTranspose t r v rest
  | trkPitchbend t r v => exact Laws.RoundTrip.trkPitchbend t r v rest
  | trkBendrange t r v => exact Laws.RoundTrip.trkBendrange t r v rest
  | trkLfotype t r k => exact Laws.RoundTrip.trkLfotype t r k rest
  | trkLfodepth t r v => exact Laws.RoundTrip.trkLfodepth t r v rest
  | trkLfospeed t r v => exact Laws.RoundTrip.trkLfospeed t r v rest
  | trkLforange t r v => exact Laws.RoundTrip.trkLforange t r v rest
  | trkLfodelay t r v => exact Laws.RoundTrip.trkLfodelay t r v rest
  | trkAttack t r v => exact Laws.RoundTrip.trkAttack t r v rest
  | trkDecay t r v => exact Laws.RoundTrip.trkDecay t r v rest
  | trkSustain t r v => exact Laws.RoundTrip.trkSustain t r v rest
  | trkRelease t r v => exact Laws.RoundTrip.trkRelease t r v rest
  | trkWaitnote t r b => exact Laws.RoundTrip.trkWaitnote t r b rest
  | trkMute t r b => exact Laws.RoundTrip.trkMute t r b rest
  | trkTick t r => exact Laws.RoundTrip.trkTick t r rest
  | note n => exact Laws.RoundTrip.note n rest
  | chStop hi c lo => exact Laws.RoundTrip.chStop hi c lo rest
  | chTick r => exact Laws.RoundTrip.chTick r rest
  | process r toRec toOut => exact Laws.RoundTrip.process r toRec toOut rest
  | emulate r => exact Laws.RoundTrip.emulate r rest
  | fadeIn r => exact Laws.RoundTrip.fadeIn r rest
  | fadeOut r => exact Laws.RoundTrip.fadeOut r rest
  | fadeReset r => exact Laws.RoundTrip.fadeReset r rest
  | setMaster r f => exact Laws.RoundTrip.setMaster r f rest
  | clrStatus r => exact Laws.RoundTrip.clrStatus r rest

theorem length_encode_of_decodeOneWord {w : Word} {i : Instr} (h : decodeOneWord w = some i) :
    (encode i).length = 1 := by
  unfold decodeOneWord at h
  split at h <;> cases h <;> rfl

/-- R50: decoding takes from the words exactly as many as the command's encoding has. -/
theorem length_of_decode_command {ws rest : List Word} {i : Instr} (h : decode ws = .command i rest) :
    ws.length = (encode i).length + rest.length := by
  cases ws with
  | nil => cases h
  | cons w ws =>
    by_cases h20 : opcodeOf w = 0x20#8
    · rw [decode, if_pos h20] at h
      unfold decodeNoteCmd at h
      split at h
      · cases h
        simp only [encode, List.length_cons, List.length_nil]
        omega
      · cases h
    by_cases h43 : opcodeOf w = 0x43#8
    · rw [decode, if_neg h20, if_pos h43] at h
      unfold decodeMasterCmd at h
      split at h
      · cases h
        simp only [encode, List.length_cons, List.length_nil]
        omega
      · cases h
    rw [decode, if_neg h20, if_neg h43] at h
    split at h
    · rename_i hw
      cases h
      rw [length_encode_of_decodeOneWord hw, List.length_cons, Nat.add_comm]
    · cases h

end Sys2Proof

namespace Sys2Proof.Machine

/-! ### The step at a whole command -/

theorem step_of_decode_command {s : State} {i : Instr} {rest : List Word} (h : decode s.stream = .command i rest) :
    step s = exec i (s.consume rest) := by
  rw [step, h]

/-- R32: the position advances by the number of words of the command. -/
theorem consume_of_decode_command {s : State} {i : Instr} {rest : List Word}
    (h : decode s.stream = .command i rest) :
    s.consume rest = { s with stream := rest, pos := s.pos + (encode i).length } := by
  rw [State.consume, length_of_decode_command h, Nat.add_sub_cancel]

/-- R47, R120: every command completes, and none writes the stream, its position, or the host's two fields. -/
theorem exec_keeps_stream_host (i : Instr) (s : State) : ∃ s', exec i s = .next s' ∧
    s'.stream = s.stream ∧ s'.pos = s.pos ∧ s'.host = s.host ∧ s'.rx = s.rx := by
  cases i with
  | trkLfotype t rsv k =>
    dsimp only [exec, execTrkLfotype]
    split <;> exact ⟨_, rfl, rfl, rfl, rfl, rfl⟩
  | setMaster rsv f =>
    dsimp only [exec, execSetMaster]
    split <;> exact ⟨_, rfl, rfl, rfl, rfl, rfl⟩
  | trkInit | trkTick | note | chStop | chTick | process | emulate => exact ⟨_, rfl, by simp⟩
  | nop | trkVolume | trkExpression | trkPriority | trkPan | trkTranspose | trkPitchbend | trkBendrange | trkLfodepth
  | trkLfospeed | trkLforange | trkLfodelay | trkAttack | trkDecay | trkSustain | trkRelease | trkWaitnote | trkMute
  | fadeIn | fadeOut | fadeReset | clrStatus => exact ⟨_, rfl, rfl, rfl, rfl, rfl⟩

/-- Settles O10: the encoding decodes to the command, whose execution leaves the consumed stream as it is. -/
theorem everyCommandIsConsumedInOneStep : Obligations.EveryCommandIsConsumedInOneStep := by
  unfold Obligations.EveryCommandIsConsumedInOneStep
  intro s i rest hs
  have hd : decode s.stream = .command i rest := hs ▸ decode_encode i rest
  rw [step_of_decode_command hd, consume_of_decode_command hd]
  exact exec_keeps_stream_host i _

/-- Settles O9, from the length of the words decoding takes. -/
theorem stepExecutesDecodedCommand : Obligations.StepExecutesDecodedCommand := by
  unfold Obligations.StepExecutesDecodedCommand
  intro s i rest hd
  rw [step_of_decode_command hd, consume_of_decode_command hd]

/-! ### The status registers are never read -/

/-- State `b` is state `a` but for the status registers (R29). -/
def DifferInStatus (a b : State) : Prop := ∃ x, b = { a with st := x }

namespace DifferInStatus

variable {P : Params} {a b : State}

theorem withStatus_eq (h : DifferInStatus a b) (x : Status) : { a with st := x } = { b with st := x } := by
  obtain ⟨_, rfl⟩ := h
  rfl

theorem ch_eq (h : DifferInStatus a b) (c : ChanIdx) : b.ch c = a.ch c := by
  obtain ⟨_, rfl⟩ := h
  rfl

theorem trk_eq (h : DifferInStatus a b) (t : TrackIdx) : b.trk t = a.trk t := by
  obtain ⟨_, rfl⟩ := h
  rfl

theorem owned_eq (h : DifferInStatus a b) (t : TrackIdx) : b.owned t = a.owned t := by
  obtain ⟨_, rfl⟩ := h
  rfl

/-- R95, R96: the arbiter reads channels and tracks alone. -/
theorem arbitrate_eq (h : DifferInStatus a b) (ty : InstrType) (t : TrackIdx) :
    arbitrate P b ty t = arbitrate P a ty t := by
  obtain ⟨_, rfl⟩ := h
  rfl

/-! Each operation leads from two states that differ in the status registers alone to two such states. -/

theorem raiseRsv (h : DifferInStatus a b) : DifferInStatus a.raiseRsv b.raiseRsv := by
  obtain ⟨_, rfl⟩ := h
  exact ⟨_, rfl⟩

theorem rsvCheck (h : DifferInStatus a b) (bad : Bool) : DifferInStatus (a.rsvCheck bad) (b.rsvCheck bad) := by
  obtain ⟨_, rfl⟩ := h
  exact ⟨_, rfl⟩

theorem clearStatus (h : DifferInStatus a b) :
    DifferInStatus { a with st := Status.clear } { b with st := Status.clear } := by
  obtain ⟨_, rfl⟩ := h
  exact ⟨_, rfl⟩

theorem setLastNote (h : DifferInStatus a b) (w : Word) : DifferInStatus (a.setLastNote w) (b.setLastNote w) := by
  obtain ⟨_, rfl⟩ := h
  exact ⟨_, rfl⟩

theorem noteDrop (h : DifferInStatus a b) (t : TrackIdx) : DifferInStatus (noteDrop t a) (noteDrop t b) := by
  obtain ⟨_, rfl⟩ := h
  exact ⟨_, rfl⟩

theorem setCh (h : DifferInStatus a b) (c : ChanIdx) (x : Channel) : DifferInStatus (a.setCh c x) (b.setCh c x) := by
  obtain ⟨_, rfl⟩ := h
  exact ⟨_, rfl⟩

theorem stopCh (h : DifferInStatus a b) (c : ChanIdx) : DifferInStatus (a.stopCh c) (b.stopCh c) := by
  obtain ⟨_, rfl⟩ := h
  exact ⟨_, rfl⟩

theorem mapCh (h : DifferInStatus a b) (f : Channel → Channel) : DifferInStatus (a.mapCh f) (b.mapCh f) := by
  obtain ⟨_, rfl⟩ := h
  exact ⟨_, rfl⟩

theorem modTrk (h : DifferInStatus a b) (t : TrackIdx) (f : Track → Track) :
    DifferInStatus (a.modTrk t f) (b.modTrk t f) := by
  obtain ⟨_, rfl⟩ := h
  exact ⟨_, rfl⟩

theorem modMix (h : DifferInStatus a b) (f : Mixer → Mixer) : DifferInStatus (a.modMix f) (b.modMix f) := by
  obtain ⟨_, rfl⟩ := h
  exact ⟨_, rfl⟩

theorem trackInit (h : DifferInStatus a b) (t : TrackIdx) : DifferInStatus (trackInit t a) (trackInit t b) := by
  obtain ⟨_, rfl⟩ := h
  exact ⟨_, rfl⟩

theorem chTickAll (h : DifferInStatus a b) (P : Params) : DifferInStatus (chTickAll P a) (chTickAll P b) := by
  obtain ⟨_, rfl⟩ := h
  exact ⟨_, rfl⟩

theorem emulateBuffer (h : DifferInStatus a b) (P : Params) :
    DifferInStatus (emulateBuffer P a) (emulateBuffer P b) := by
  obtain ⟨_, rfl⟩ := h
  exact ⟨_, rfl⟩

theorem processBuffer (h : DifferInStatus a b) (P : Params) (toRec toOut : Bool) :
    DifferInStatus (processBuffer P toRec toOut a) (processBuffer P toRec toOut b) := by
  obtain ⟨_, rfl⟩ := h
  exact ⟨_, rfl⟩

theorem trackTick (h : DifferInStatus a b) (t : TrackIdx) : DifferInStatus (trackTick t a) (trackTick t b) := by
  unfold Machine.trackTick
  rw [h.owned_eq]
  split
  · exact (h.mapCh _).modTrk t _
  · exact h.modTrk t _

theorem chStopEffect (h : DifferInStatus a b) (c : ChanIdx) : DifferInStatus (chStopEffect c a) (chStopEffect c b) := by
  unfold Machine.chStopEffect
  rw [h.ch_eq]
  split
  · exact h.stopCh c
  · exact h

theorem noteTake (h : DifferInStatus a b) (P : Params) (n : NoteFields) (ty : InstrType) (c : ChanIdx) :
    DifferInStatus (noteTake P n ty c a) (noteTake P n ty c b) := by
  dsimp only [Machine.noteTake]
  rw [h.ch_eq]
  split
  · rw [(h.stopCh c).trk_eq]
    exact ((h.stopCh c).setCh c _).setLastNote _
  · rw [h.trk_eq]
    exact (h.setCh c _).setLastNote _

theorem noteStart (h : DifferInStatus a b) (P : Params) (n : NoteFields) :
    DifferInStatus (noteStart P n a) (noteStart P n b) := by
  unfold Machine.noteStart
  split
  · exact h.raiseRsv.noteDrop n.t
  · rw [h.arbitrate_eq]
    split
    · exact h.noteDrop n.t
    · exact h.noteTake P n _ _

/-- R29, R120: every command completes from either state, and the next states differ in the status registers alone. -/
theorem exec (h : DifferInStatus a b) (i : Instr) :
    ∃ a' b', exec i a = .next a' ∧ exec i b = .next b' ∧ DifferInStatus a' b' := by
  cases i with
  | nop rsv => exact ⟨_, _, rfl, rfl, h.rsvCheck _⟩
  | trkInit t rsv => exact ⟨_, _, rfl, rfl, (h.rsvCheck _).trackInit t⟩
  | trkVolume t | trkExpression t | trkPriority t | trkPan t | trkTranspose t | trkPitchbend t | trkBendrange t
  | trkLfodepth t | trkLfospeed t | trkLforange t | trkLfodelay t | trkAttack t | trkDecay t | trkSustain t
  | trkRelease t | trkWaitnote t => exact ⟨_, _, rfl, rfl, (h.rsvCheck _).modTrk t _⟩
  | trkLfotype t rsv k =>
    dsimp only [Machine.exec, execTrkLfotype]
    split
    · exact ⟨_, _, rfl, rfl, (h.rsvCheck _).raiseRsv⟩
    · exact ⟨_, _, rfl, rfl, (h.rsvCheck _).modTrk t _⟩
  | trkTick t rsv => exact ⟨_, _, rfl, rfl, (h.rsvCheck _).trackTick t⟩
  | note n => exact ⟨_, _, rfl, rfl, (h.rsvCheck _).noteStart _ n⟩
  | chStop hi c lo => exact ⟨_, _, rfl, rfl, (h.rsvCheck _).chStopEffect c⟩
  | chTick rsv => exact ⟨_, _, rfl, rfl, (h.rsvCheck _).chTickAll _⟩
  | process rsv toRec toOut => exact ⟨_, _, rfl, rfl, (h.rsvCheck _).processBuffer _ toRec toOut⟩
  | emulate rsv => exact ⟨_, _, rfl, rfl, (h.rsvCheck _).emulateBuffer _⟩
  | trkMute | fadeIn | fadeOut | fadeReset => exact ⟨_, _, rfl, rfl, (h.rsvCheck _).modMix _⟩
  | setMaster rsv f =>
    dsimp only [Machine.exec, execSetMaster]
    split
    · exact ⟨_, _, rfl, rfl, (h.rsvCheck _).raiseRsv⟩
    · exact ⟨_, _, rfl, rfl, (h.rsvCheck _).modMix _⟩
  | clrStatus rsv => exact ⟨_, _, rfl, rfl, h.clearStatus.rsvCheck _⟩

end DifferInStatus

/-- Settles O57: each command keeps two states differing in the status registers alone. -/
theorem statusIsNeverRead : Obligations.StatusIsNeverRead := by
  unfold Obligations.StatusIsNeverRead
  intro i s other
  obtain ⟨a, b, ha, hb, h⟩ := DifferInStatus.exec (a := s) ⟨other, rfl⟩ i
  exact ⟨a, b, ha, hb, h.withStatus_eq other⟩

/-! ### The envelope step -/

/-- Settles O32, by the law of the envelope step. -/
theorem envelopeStepKeepsRanges : Obligations.EnvelopeStepKeepsRanges := by
  unfold Obligations.EnvelopeStepKeepsRanges
  exact fun _ h => h.stepEnvelope

/-! ### Buffer removal and reset -/

/-- R56, R129: while no whole command stands in the stream, the step is the host's next action. -/
theorem step_of_host_action {s : State} {act : HostAction} {later : List HostAction}
    (hd : decode s.stream = .incomplete) (hh : s.host = act :: later) :
    step s = hostAct Config.params act { s with host := later } := by
  rw [step, hd]
  dsimp only [hostStep]
  rw [hh]

/-- Settles O20: each clause is the host's action at an incomplete stream. -/
theorem bufferRemovalAndReset : Obligations.BufferRemovalAndReset := by
  unfold Obligations.BufferRemovalAndReset
  intro s later hd
  refine ⟨fun b q hh hq => ?_, fun b q hh hq => ?_, fun hh hq => ?_, fun hh hq => ?_, fun hh => ?_⟩
  all_goals rw [step_of_host_action hd hh]
  · simp [hostAct, hq]
  · simp [hostAct, hq]
  · simp [hostAct, hq]
  · simp [hostAct, hq]
  · rfl

@[simp] theorem State.reset_ch (c : ChanIdx) : State.reset.ch c = Channel.atReset Config.params :=
  Vector.getElem_replicate _

@[simp] theorem State.reset_trk (t : TrackIdx) : State.reset.trk t = Track.defaults := Vector.getElem_replicate _

/-- Settles O21, from the reset banks. -/
theorem resetValues : Obligations.ResetValues := by
  unfold Obligations.ResetValues
  exact ⟨State.reset_ch, State.reset_trk, fun _ => Vector.getElem_replicate _, rfl, rfl, rfl, rfl, rfl, rfl, rfl, rfl,
    rfl, rfl⟩

/-- Settles O59: the state after reset is one that the host's reset leads to. -/
theorem invariantHoldsAtReset : Obligations.InvariantHoldsAtReset := by
  unfold Obligations.InvariantHoldsAtReset
  exact State.Inv.hostReset State.reset

end Sys2Proof.Machine
end

section
/-! PROOFS. The status window (R36): the fields each packed word reads back as, and from them the words that
stand at the offsets of the window. -/

namespace Sys2Proof

/-- A field of a word put together from its parts is that piece of the parts. -/
theorem bits_pack {a lo n : Nat} (x : BitVec a) (h : a = 32) : bits lo n (pack x h) = x.extractLsb' lo n := by
  subst h
  rfl

end Sys2Proof

namespace Sys2Proof.Machine

open BitVec (extractLsb'_append_eq_of_add_le extractLsb'_append_eq_of_le extractLsb'_eq_self getLsbD_append
  toInt_signExtend_of_le)

/-! ### The global words -/

theorem statusReg_fields (s : State) :
    (statusReg s).getLsbD 0 = s.st.unk ∧ (statusReg s).getLsbD 1 = s.st.rsv ∧ (statusReg s).getLsbD 2 = s.st.drop ∧
    (statusReg s).getLsbD 3 = s.mix.silent ∧ bits 4 2 (statusReg s) = fadeDirCode s.mix.fadeDir ∧
    bits 6 26 (statusReg s) = 0#26 := by
  simp (disch := decide) only [statusReg, bits_pack, extractLsb'_append_eq_of_add_le, extractLsb'_append_eq_of_le,
    extractLsb'_eq_self, Nat.reduceSub, getLsbD_pack, getLsbD_append]
  simp

/-- R36: offsets 0x01C to 0x03F read 0. -/
theorem globalReg_unlisted (s : State) {k : Nat} (h : 7 ≤ k) : globalReg s k = 0#32 := by
  obtain ⟨j, rfl⟩ := Nat.exists_eq_add_of_le' h
  rfl

/-- Settles O14: each global word is its register, read field by field. -/
theorem statusWindowGlobalWords : Obligations.StatusWindowGlobalWords := by
  unfold Obligations.StatusWindowGlobalWords
  intro s
  obtain ⟨hunk, hrsv, hdrop, hsilent, hdir, hrest⟩ := statusReg_fields s
  exact ⟨rfl, hunk, hrsv, hdrop, hsilent, hdir, hrest, rfl,
    fun h => (BitVec.toNat_ofNat s.mix.fadeLeft 32).trans (Nat.mod_eq_of_lt h), rfl,
    getLsbD_bitPerIdx _, getLsbD_bitPerIdx _, bits_bitPerIdx _, bits_bitPerIdx _,
    fun k h7 h16 => (statusRead_global s h16).trans (globalReg_unlisted s h7)⟩

/-! ### The track words -/

theorem trkLfoReg_fields (x : Track) :
    bits 0 15 (trkLfoReg x) = x.lfoPhase ∧ (trkLfoReg x).getLsbD 15 = false ∧
    bits 16 16 (trkLfoReg x) = x.lfoDelayCnt := by
  simp (disch := decide) only [trkLfoReg, bits_pack, extractLsb'_append_eq_of_add_le, extractLsb'_append_eq_of_le,
    extractLsb'_eq_self, Nat.reduceSub, getLsbD_pack, getLsbD_append]
  simp

theorem trkAReg_fields (x : Track) :
    bits 0 7 (trkAReg x) = x.volume ∧ (trkAReg x).getLsbD 7 = false ∧ bits 8 7 (trkAReg x) = x.expression ∧
    (trkAReg x).getLsbD 15 = false ∧ bits 16 8 (trkAReg x) = x.priority ∧
    (bits 24 8 (trkAReg x)).toInt = x.pan.toInt := by
  simp (disch := decide) only [trkAReg, bits_pack, extractLsb'_append_eq_of_add_le, extractLsb'_append_eq_of_le,
    extractLsb'_eq_self, Nat.reduceSub, getLsbD_pack, getLsbD_append, toInt_signExtend_of_le]
  simp

theorem trkBReg_fields (x : Track) :
    bits 0 8 (trkBReg x) = x.transpose ∧ bits 8 8 (trkBReg x) = x.pitchBend ∧
    bits 16 8 (trkBReg x) = x.bendRange ∧ bits 24 2 (trkBReg x) = lfoTypeCode x.lfoType ∧
    (trkBReg x).getLsbD 26 = x.waitNote ∧ bits 27 5 (trkBReg x) = 0#5 := by
  simp (disch := decide) only [trkBReg, bits_pack, extractLsb'_append_eq_of_add_le, extractLsb'_append_eq_of_le,
    extractLsb'_eq_self, Nat.reduceSub, getLsbD_pack, getLsbD_append]
  simp

theorem trkCReg_fields (x : Track) :
    bits 0 8 (trkCReg x) = x.lfoDepth ∧ bits 8 8 (trkCReg x) = x.lfoSpeed ∧ bits 16 8 (trkCReg x) = x.lfoRange ∧
    bits 24 8 (trkCReg x) = 0#8 := by
  simp (disch := decide) only [trkCReg, bits_pack, extractLsb'_append_eq_of_add_le, extractLsb'_append_eq_of_le,
    extractLsb'_eq_self, Nat.reduceSub, and_self]

theorem trkDReg_fields (x : Track) :
    bits 0 8 (trkDReg x) = x.attack ∧ bits 8 8 (trkDReg x) = x.decay ∧ bits 16 8 (trkDReg x) = x.sustain ∧
    bits 24 8 (trkDReg x) = x.release := by
  simp (disch := decide) only [trkDReg, bits_pack, extractLsb'_append_eq_of_add_le, extractLsb'_append_eq_of_le,
    extractLsb'_eq_self, Nat.reduceSub, and_self]

theorem trkEReg_fields (x : Track) : bits 0 16 (trkEReg x) = x.lfoDelay ∧ bits 16 16 (trkEReg x) = 0#16 := by
  simp (disch := decide) only [trkEReg, bits_pack, extractLsb'_append_eq_of_add_le, extractLsb'_append_eq_of_le,
    extractLsb'_eq_self, Nat.reduceSub, and_self]

/-- Settles O15: each word of the window is the track's register, and each register is read field by field. -/
theorem statusWindowTrackWords : Obligations.StatusWindowTrackWords := by
  unfold Obligations.StatusWindowTrackWords
  intro s t
  have hmask : statusRead s (0x040 + 4 * t.val) = trkMaskReg s t := statusRead_track s t (k := 0) (by decide)
  have hlfo : statusRead s (0x080 + 4 * t.val) = trkLfoReg (s.trk t) := statusRead_track s t (k := 1) (by decide)
  have ha : statusRead s (0x0C0 + 4 * t.val) = trkAReg (s.trk t) := statusRead_track s t (k := 2) (by decide)
  have hb : statusRead s (0x100 + 4 * t.val) = trkBReg (s.trk t) := statusRead_track s t (k := 3) (by decide)
  have hc : statusRead s (0x140 + 4 * t.val) = trkCReg (s.trk t) := statusRead_track s t (k := 4) (by decide)
  have hd : statusRead s (0x180 + 4 * t.val) = trkDReg (s.trk t) := statusRead_track s t (k := 5) (by decide)
  have he : statusRead s (0x1C0 + 4 * t.val) = trkEReg (s.trk t) := statusRead_track s t (k := 6) (by decide)
  rw [hmask, hlfo, ha, hb, hc, hd, he]
  refine ⟨getLsbD_bitPerIdx _, bits_bitPerIdx _, ?_⟩
  simp only [trkLfoReg_fields, trkAReg_fields, trkBReg_fields, trkCReg_fields, trkDReg_fields, trkEReg_fields, and_self]

/-! ### The channel words -/

theorem chCtrlReg_fields (c : Channel) :
    (chCtrlReg c).getLsbD 0 = c.owner.isSome ∧ bits 1 3 (chCtrlReg c) = 0#3 ∧
    bits 4 4 (chCtrlReg c) = idxBits (c.owner.getD 0) ∧ bits 8 2 (chCtrlReg c) = envStateCode c.state ∧
    bits 10 2 (chCtrlReg c) = instrTypeCode c.typ ∧ bits 12 7 (chCtrlReg c) = c.key ∧
    bits 19 7 (chCtrlReg c) = c.noteVel ∧ (chCtrlReg c).getLsbD 26 = c.autoSweep ∧ bits 27 5 (chCtrlReg c) = 0#5 := by
  simp (disch := decide) only [chCtrlReg, bits_pack, extractLsb'_append_eq_of_add_le, extractLsb'_append_eq_of_le,
    extractLsb'_eq_self, Nat.reduceSub, getLsbD_pack, getLsbD_append]
  simp

theorem chOutReg_fields (c : Channel) :
    bits 0 7 (chOutReg c) = c.volume ∧ (chOutReg c).getLsbD 7 = false ∧
    (bits 8 8 (chOutReg c)).toInt = c.pan.toInt ∧ bits 16 16 (chOutReg c) = c.timer := by
  simp (disch := decide) only [chOutReg, bits_pack, extractLsb'_append_eq_of_add_le, extractLsb'_append_eq_of_le,
    extractLsb'_eq_self, Nat.reduceSub, getLsbD_pack, getLsbD_append, toInt_signExtend_of_le]
  simp

theorem chSweepReg_fields (c : Channel) :
    bits 0 16 (chSweepReg c) = c.sweepPitch ∧ bits 16 16 (chSweepReg c) = c.sweepCnt := by
  simp (disch := decide) only [chSweepReg, bits_pack, extractLsb'_append_eq_of_add_le, extractLsb'_append_eq_of_le,
    extractLsb'_eq_self, Nat.reduceSub, and_self]

theorem chSwlReg_fields (c : Channel) :
    bits 0 16 (chSwlReg c) = c.sweepLen ∧ bits 16 7 (chSwlReg c) = c.baseKey ∧ (chSwlReg c).getLsbD 23 = false ∧
    (bits 24 8 (chSwlReg c)).toInt = c.startPan.toInt := by
  simp (disch := decide) only [chSwlReg, bits_pack, extractLsb'_append_eq_of_add_le, extractLsb'_append_eq_of_le,
    extractLsb'_eq_self, Nat.reduceSub, getLsbD_pack, getLsbD_append, toInt_signExtend_of_le]
  simp

/-- CHTIMER: baseTimer. -/
theorem channelReg_timer_fields (c : Channel) :
    bits 0 16 (channelReg c 6) = c.baseTimer ∧ bits 16 16 (channelReg c 6) = 0#16 := by
  simp (disch := decide) only [channelReg, bits_pack, extractLsb'_append_eq_of_add_le, extractLsb'_append_eq_of_le,
    extractLsb'_eq_self, Nat.reduceSub, and_self]

/-- CHENV holds an envelope level of R19's range whole. -/
theorem toInt_ofInt_env {e : Int} (h : FLOOR ≤ e ∧ e ≤ 0) : (BitVec.ofInt 32 e).toInt = e := by
  obtain ⟨hlo, hhi⟩ := h
  unfold FLOOR at hlo
  exact BitVec.toInt_ofInt_eq_self (by decide) (by omega) (by omega)

/-- Settles O16: each word of the window is the channel's register, and each register is read field by field. -/
theorem statusWindowChannelWords : Obligations.StatusWindowChannelWords := by
  unfold Obligations.StatusWindowChannelWords
  intro s c
  have hctrl : statusRead s (0x200 + 32 * c.val) = chCtrlReg (s.ch c) := statusRead_channel s c (k := 0) (by decide)
  have henv : statusRead s (0x204 + 32 * c.val) = BitVec.ofInt 32 (s.ch c).env :=
    statusRead_channel s c (k := 1) (by decide)
  have hout : statusRead s (0x208 + 32 * c.val) = chOutReg (s.ch c) := statusRead_channel s c (k := 2) (by decide)
  have hdur : statusRead s (0x20C + 32 * c.val) = (s.ch c).dur := statusRead_channel s c (k := 3) (by decide)
  have hsweep : statusRead s (0x210 + 32 * c.val) = chSweepReg (s.ch c) := statusRead_channel s c (k := 4) (by decide)
  have hswl : statusRead s (0x214 + 32 * c.val) = chSwlReg (s.ch c) := statusRead_channel s c (k := 5) (by decide)
  have htimer : statusRead s (0x218 + 32 * c.val) = channelReg (s.ch c) 6 :=
    statusRead_channel s c (k := 6) (by decide)
  have hosc : statusRead s (0x21C + 32 * c.val) = (s.ch c).oscCfg := statusRead_channel s c (k := 7) (by decide)
  rw [hctrl, henv, hout, hdur, hsweep, hswl, htimer, hosc]
  have howner : ∀ t, (s.ch c).owner = some t → (idxBits ((s.ch c).owner.getD 0)).toFin = t := by
    intro t h
    rw [h, Option.getD_some, toFin_idxBits]
  have hfree : (s.ch c).owner = none → idxBits ((s.ch c).owner.getD 0) = 0#4 := by
    intro h
    rw [h]
    rfl
  simp only [chCtrlReg_fields, chOutReg_fields, chSweepReg_fields, chSwlReg_fields, channelReg_timer_fields,
    true_and, and_true]
  exact ⟨howner, hfree, toInt_ofInt_env⟩

end Sys2Proof.Machine
end

section
/-! PROOFS. The host's accesses to the window (R37, R38, R40), the steps that stop (R120), what no command
writes (R47), and the commands that change a channel's owner (R46). -/

namespace Sys2Proof.Machine

/-! ### The command stream -/

/-- Settles O11, from what every command leaves to the stream. -/
theorem commandsCannotWriteTheStream : Obligations.CommandsCannotWriteTheStream := by
  unfold Obligations.CommandsCannotWriteTheStream
  intro i s
  obtain ⟨s', he, hstream, hpos, -⟩ := exec_keeps_stream_host i s
  exact ⟨s', he, hstream, hpos⟩

/-! ### Accesses of the host -/

/-- R40, R42: the accesses the window has, by the offset of the address from the block's base. -/
theorem accessOk_iff (P : Params) (addr width : Nat) : accessOk P addr width = true ↔
    width = 4 ∧ ∃ off, off < 0x400 ∧ off % 4 = 0 ∧ addr = P.blockBase + off := by
  constructor
  · intro h
    simp only [accessOk, Bool.and_eq_true, beq_iff_eq, decide_eq_true_eq] at h
    obtain ⟨⟨⟨hw, hbase⟩, hlt⟩, hmod⟩ := h
    exact ⟨hw, addr - P.blockBase, hlt, hmod, by omega⟩
  · rintro ⟨rfl, off, hlt, hmod, rfl⟩
    exact accessOk_window P hlt hmod

/-- The action is a bus access of `width` bytes at `addr`. -/
def IsAccess (act : HostAction) (addr width : Nat) : Prop :=
  act = .read addr width ∨ ∃ data, act = .write addr width data

/-- R40: an access the window has is answered. -/
theorem hostAct_of_accessOk {P : Params} {act : HostAction} {addr width : Nat} (ha : IsAccess act addr width)
    (h : accessOk P addr width = true) (s : State) : ∃ s', hostAct P act s = .next s' := by
  rcases ha with rfl | ⟨data, rfl⟩
  · exact ⟨_, if_pos h⟩
  · exact ⟨_, if_pos h⟩

/-- R40: every other access is refused. -/
theorem hostAct_of_not_accessOk {P : Params} {act : HostAction} {addr width : Nat} (ha : IsAccess act addr width)
    (h : ¬ accessOk P addr width = true) (s : State) : hostAct P act s = .refused .accessRefused := by
  rcases ha with rfl | ⟨data, rfl⟩
  · exact if_neg h
  · exact if_neg h

/-- R129: an action of the host is an access or is answered. -/
theorem isAccess_or_next (P : Params) (act : HostAction) (s : State) :
    (∃ addr width, IsAccess act addr width) ∨ ∃ s', hostAct P act s = .next s' := by
  cases act with
  | write addr width data => exact .inl ⟨addr, width, .inr ⟨data, rfl⟩⟩
  | read addr width => exact .inl ⟨addr, width, .inl rfl⟩
  | takeAudio | takeRec | reset => exact .inr ⟨_, rfl⟩

/-- Settles O13: a read at an aligned offset is one the window has. -/
theorem statusReadChangesNothing : Obligations.StatusReadChangesNothing := by
  unfold Obligations.StatusReadChangesNothing
  intro s off later hd hlt hmod hh
  rw [step_of_host_action hd hh, hostAct, if_pos (accessOk_window _ hlt hmod), Nat.add_sub_cancel_left]
  rfl

/-- Settles O17: a write at an aligned offset is one the window has, and the port is at offset 0. -/
theorem commandPortWrite : Obligations.CommandPortWrite := by
  unfold Obligations.CommandPortWrite
  intro s off data later hd hlt hmod hh
  rw [step_of_host_action hd hh, hostAct, if_pos (accessOk_window _ hlt hmod), Nat.add_sub_cancel_left, windowWrite]
  exact ⟨fun h => by rw [if_pos h], fun h => by rw [if_neg h]⟩

/-- Settles O18: the good accesses are those the window has. -/
theorem badAccessIsRefused : Obligations.BadAccessIsRefused := by
  unfold Obligations.BadAccessIsRefused
  intro s addr width data later hd hh
  obtain ⟨act, ha, hact⟩ : ∃ act, IsAccess act addr width ∧ s.host = act :: later :=
    hh.elim (fun h => ⟨_, .inl rfl, h⟩) fun h => ⟨_, .inr ⟨data, rfl⟩, h⟩
  rw [step_of_host_action hd hact, ← accessOk_iff]
  exact ⟨fun h => hostAct_of_accessOk ha h _, fun h => hostAct_of_not_accessOk ha h _⟩

/-- Settles O19: commands and unknown opcodes complete, and so does every action of the host but an access the
window does not have. -/
theorem onlyBadAccessesStop : Obligations.OnlyBadAccessesStop := by
  unfold Obligations.OnlyBadAccessesStop
  intro s
  cases hd : decode s.stream with
  | command i rest =>
    obtain ⟨s', he, -⟩ := exec_keeps_stream_host i (s.consume rest)
    exact .inl ⟨s', by rw [step_of_decode_command hd, he]⟩
  | unknown op rest => exact .inl ⟨_, by rw [step, hd]; rfl⟩
  | incomplete =>
    cases hh : s.host with
    | nil => exact .inl ⟨s, by simp [step, hd, hostStep, hh]⟩
    | cons act later =>
      rw [step_of_host_action hd hh]
      rcases isAccess_or_next Config.params act { s with host := later } with ⟨addr, width, ha⟩ | hnext
      · by_cases hok : accessOk Config.params addr width = true
        · exact .inl (hostAct_of_accessOk ha hok _)
        · exact .inr ⟨hostAct_of_not_accessOk ha hok _, rfl, addr, width, later, by simpa [IsAccess] using ha,
            fun h => hok ((accessOk_iff ..).2 h)⟩
      · exact .inl hnext

/-! ### The owner of a channel -/

/-- R78: TRK_INIT frees the channels of its track alone. -/
theorem initChannel_owner (t : TrackIdx) (c : Channel) :
    (initChannel t c).owner = if c.owner = some t then none else c.owner := by
  unfold initChannel
  split <;> rfl

@[simp] theorem tickChannel_owner (t : TrackIdx) (c : Channel) : (tickChannel t c).owner = c.owner := by
  unfold tickChannel
  split <;> rfl

/-- R114: frames keep the owner of every channel. -/
theorem oscAdvanceN_owner (P : Params) (n : Nat) (chs : Bank Channel) (c : ChanIdx) :
    (oscAdvanceN P n chs)[c.val].owner = chs[c.val].owner := by
  obtain ⟨q, h⟩ := oscAdvanceN_at P n chs c
  rw [h]

@[simp] theorem emulateBuffer_ch_owner (P : Params) (s : State) (c : ChanIdx) :
    ((emulateBuffer P s).ch c).owner = (s.ch c).owner :=
  oscAdvanceN_owner P P.spb s.channels c

@[simp] theorem processBuffer_ch_owner (P : Params) (toRec toOut : Bool) (s : State) (c : ChanIdx) :
    ((processBuffer P toRec toOut s).ch c).owner = (s.ch c).owner := by
  rw [State.ch_eq, processBuffer_channels, oscAdvanceN_owner, State.ch_eq]

/-- R98: a NOTE leaves a channel's owner alone or makes its own track the owner. -/
theorem noteStart_ch_owner (P : Params) (n : NoteFields) (s : State) (c : ChanIdx) :
    ((noteStart P n s).ch c).owner = (s.ch c).owner ∨ ((noteStart P n s).ch c).owner = some n.t := by
  rcases noteStart_cases P s n with ⟨-, h⟩ | ⟨-, -, -, h⟩ | ⟨ty, d, -, -, h⟩
  · exact .inl (by rw [h, noteDrop_ch, State.raiseRsv_ch])
  · exact .inl (by rw [h, noteDrop_ch])
  · rw [h, noteTake_ch]
    split
    · exact .inr rfl
    · exact .inl rfl

/-- R46: the commands that can change a channel's owner. -/
def ChangesOwners : Instr → Prop
  | .note _ | .chStop _ _ _ | .trkInit _ _ | .chTick _ => True
  | _ => False

/-- R46: every other command keeps the owner of every channel. -/
theorem exec_keeps_owner {i : Instr} (hi : ¬ ChangesOwners i) {s s' : State} (h : exec i s = .next s')
    (c : ChanIdx) : (s'.ch c).owner = (s.ch c).owner := by
  cases i with
  | note | chStop | trkInit | chTick => exact absurd trivial hi
  | trkLfotype t rsv k =>
    dsimp only [exec, execTrkLfotype] at h
    split at h <;> cases h <;> rfl
  | setMaster rsv f =>
    dsimp only [exec, execSetMaster] at h
    split at h <;> cases h <;> rfl
  | trkTick t rsv =>
    cases h
    rw [trackTick_ch, tickChannel_owner, State.rsvCheck_ch]
  | process rsv toRec toOut =>
    cases h
    rw [processBuffer_ch_owner, State.rsvCheck_ch]
  | emulate rsv =>
    cases h
    rw [emulateBuffer_ch_owner, State.rsvCheck_ch]
  | nop | trkVolume | trkExpression | trkPriority | trkPan | trkTranspose | trkPitchbend | trkBendrange | trkLfodepth
  | trkLfospeed | trkLforange | trkLfodelay | trkAttack | trkDecay | trkSustain | trkRelease | trkWaitnote | trkMute
  | fadeIn | fadeOut | fadeReset | clrStatus =>
    cases h
    rfl

/-- R93: CH_STOP leaves its channel free and the owner of every other channel alone. -/
theorem chStopEffect_ch_owner (s : State) (c d : ChanIdx) :
    ((chStopEffect c s).ch d).owner = if c = d then none else (s.ch d).owner := by
  rw [chStopEffect_ch]
  by_cases hc : c = d
  · subst hc
    by_cases ho : (s.ch c).owner = none
    · rw [if_neg fun h => h.2 ho, if_pos rfl, ho]
    · rw [if_pos ⟨rfl, ho⟩, if_pos rfl]
      rfl
  · rw [if_neg fun h => hc h.1, if_neg hc]

/-- Settles O55: what each of the four commands does to the owner of one channel. -/
theorem ownershipChangesOnlyInFourCommands : Obligations.OwnershipChangesOnlyInFourCommands := by
  unfold Obligations.OwnershipChangesOnlyInFourCommands
  intro i s s' c h hne
  by_cases hi : ChangesOwners i
  · cases i with
    | note n =>
      obtain rfl := Host.Outcome.next.inj h
      exact .inl ⟨n, rfl, (noteStart_ch_owner _ n _ c).resolve_left hne⟩
    | chStop rsvHi d rsvLo =>
      obtain rfl := Host.Outcome.next.inj h
      rw [chStopEffect_ch_owner] at hne ⊢
      obtain rfl : d = c := by
        by_contra hd
        exact hne (if_neg hd)
      exact .inr ⟨if_pos rfl, .inl ⟨rsvHi, rsvLo, rfl⟩⟩
    | trkInit t r =>
      obtain rfl := Host.Outcome.next.inj h
      rw [trackInit_ch, initChannel_owner] at hne ⊢
      have ho : (s.ch c).owner = some t := by
        by_contra ho
        exact hne (if_neg ho)
      exact .inr ⟨if_pos ho, .inr (.inl ⟨t, r, rfl, ho⟩)⟩
    | chTick r =>
      obtain rfl := Host.Outcome.next.inj h
      rw [chTickAll_ch] at hne ⊢
      obtain ⟨hnone, hrel⟩ := (chTickOne_owner _ _ _).resolve_left hne
      exact .inr ⟨hnone, .inr (.inr ⟨r, rfl, hrel⟩)⟩
    | _ => exact hi.elim
  · exact absurd (exec_keeps_owner hi h c) hne

end Sys2Proof.Machine
end

section
/-! PROOFS. The encoding (R49 to R56): the fields of a word put together again are the word, so decoding is
undone by encoding; how many words decoding takes; and a command whose words have not all arrived. -/

namespace Sys2Proof

/-! ### Fields put together again -/

/-- A field above its lower neighbour is the field that spans both. -/
theorem bits_append_bits {hi lo m n : Nat} {w : Word} (h : hi = lo + m) :
    bits hi n w ++ bits lo m w = bits lo (n + m) w := by
  apply BitVec.eq_of_getLsbD_eq
  intro i hi'
  rw [BitVec.getLsbD_append, getLsbD_bits, getLsbD_bits, getLsbD_bits, h]
  split
  · simp [hi', ‹i < m›]
  · have hn : i - m < n := by omega
    have hk : lo + m + (i - m) = lo + i := by omega
    simp [hi', hn, hk]

theorem pack_bits {lo m n : Nat} {w : Word} (h : m = n) : pack (bits lo m w) h = bits lo n w := by
  subst h
  rfl

theorem bits_whole (w : Word) : bits 0 32 w = w := BitVec.extractLsb'_eq_self

theorem ofBool_getLsbD_eq_bits (w : Word) (i : Nat) : BitVec.ofBool (w.getLsbD i) = bits i 1 w := by
  apply BitVec.eq_of_getLsbD_eq
  intro j hj
  obtain rfl : j = 0 := by omega
  simp only [BitVec.getLsbD_ofBool, getLsbD_bits, decide_true, Bool.true_and, hj, Nat.add_zero]

theorem idxBits_trackOf (w : Word) : idxBits (trackOf w) = bits 20 4 w := idxBits_toFin _

theorem idxBits_channelOf (w : Word) : idxBits (channelOf w) = bits 16 4 w := idxBits_toFin _

/-! ### Each format's word from its fields -/

section
variable {w : Word} {op : BitVec 8} (h : opcodeOf w = op)
include h

theorem header_bits : header op (bits 0 24 w) = w := by
  subst h
  simp only [header, opcodeOf, bits_append_bits, pack_bits, bits_whole]

theorem fmtT_bits : fmtT op (trackOf w) (bits 0 20 w) = w := by
  simp only [fmtT, idxBits_trackOf, bits_append_bits, pack_bits, header_bits h]

theorem fmtV7_bits : fmtV7 op (trackOf w) (bits 7 13 w) (bits 0 7 w) = w := by
  simp only [fmtV7, bits_append_bits, pack_bits, fmtT_bits h]

theorem fmtI8_bits : fmtI8 op (trackOf w) (bits 8 12 w) (bits 0 8 w) = w := by
  simp only [fmtI8, bits_append_bits, pack_bits, fmtT_bits h]

theorem fmtE2_bits : fmtE2 op (trackOf w) (bits 2 18 w) (bits 0 2 w) = w := by
  simp only [fmtE2, bits_append_bits, pack_bits, fmtT_bits h]

theorem fmtB1_bits : fmtB1 op (trackOf w) (bits 1 19 w) (w.getLsbD 0) = w := by
  simp only [fmtB1, ofBool_getLsbD_eq_bits, bits_append_bits, pack_bits, fmtT_bits h]

theorem fmtI16_bits : fmtI16 op (trackOf w) (bits 16 4 w) (bits 0 16 w) = w := by
  simp only [fmtI16, bits_append_bits, pack_bits, fmtT_bits h]

theorem header_chStop_bits :
    header op (pack (bits 20 4 w ++ idxBits (channelOf w) ++ bits 0 16 w) rfl) = w := by
  simp only [idxBits_channelOf, bits_append_bits, pack_bits, header_bits h]

theorem header_process_bits :
    header op (pack (bits 2 22 w ++ BitVec.ofBool (w.getLsbD 1) ++ BitVec.ofBool (w.getLsbD 0)) rfl) = w := by
  simp only [ofBool_getLsbD_eq_bits, bits_append_bits, pack_bits, header_bits h]

end

theorem noteWord0_decodeNote {w0 : Word} (h : opcodeOf w0 = 0x20#8) (w1 w2 w3 w4 w5 : Word) :
    noteWord0 (decodeNote w0 w1 w2 w3 w4 w5) = w0 := by
  simp only [noteWord0, decodeNote, idxBits_trackOf, ofBool_getLsbD_eq_bits, bits_append_bits, pack_bits, header_bits h]

theorem noteWord2_decodeNote (w0 w1 w2 w3 w4 w5 : Word) : noteWord2 (decodeNote w0 w1 w2 w3 w4 w5) = w2 := by
  simp only [noteWord2, decodeNote, bits_append_bits, pack_bits, bits_whole]

theorem noteWord3_decodeNote (w0 w1 w2 w3 w4 w5 : Word) : noteWord3 (decodeNote w0 w1 w2 w3 w4 w5) = w3 := by
  simp only [noteWord3, decodeNote, bits_append_bits, pack_bits, bits_whole]

theorem noteWord4_decodeNote (w0 w1 w2 w3 w4 w5 : Word) : noteWord4 (decodeNote w0 w1 w2 w3 w4 w5) = w4 := by
  simp only [noteWord4, decodeNote, bits_append_bits, pack_bits, bits_whole]

/-! ### What decoding does with a stream -/

/-- R53: a word that decodes to a one-word command is that command's encoding. -/
theorem encode_of_decodeOneWord {w : Word} {i : Instr} (h : decodeOneWord w = some i) : encode i = [w] := by
  unfold decodeOneWord at h
  split at h
  case h_30 => cases h
  all_goals
    rename_i hop
    cases h
    simp only [encode, header_bits hop, fmtT_bits hop, fmtV7_bits hop, fmtI8_bits hop, fmtE2_bits hop, fmtB1_bits hop,
      fmtI16_bits hop, header_chStop_bits hop, header_process_bits hop]

theorem cmdLength_pos (op : BitVec 8) : 0 < cmdLength op := by
  unfold cmdLength
  split_ifs <;> decide

theorem decodeNoteCmd_cases {w : Word} (h : opcodeOf w = 0x20#8) (ws : List Word) :
    (decodeNoteCmd w ws = .incomplete ∧ ws.length + 1 < 6) ∨
    ∃ n rest, decodeNoteCmd w ws = .command (.note n) rest ∧ w :: ws = encode (.note n) ++ rest := by
  match ws with
  | [] | [_] | [_, _] | [_, _, _] | [_, _, _, _] => exact .inl ⟨rfl, by simp⟩
  | w1 :: w2 :: w3 :: w4 :: w5 :: rest =>
    refine .inr ⟨_, rest, rfl, ?_⟩
    rw [encode, noteWord0_decodeNote h, noteWord2_decodeNote, noteWord3_decodeNote, noteWord4_decodeNote]
    rfl

theorem decodeMasterCmd_cases {w : Word} (h : opcodeOf w = 0x43#8) (ws : List Word) :
    (decodeMasterCmd w ws = .incomplete ∧ ws.length + 1 < 2) ∨
    ∃ r f rest, decodeMasterCmd w ws = .command (.setMaster r f) rest ∧
      w :: ws = encode (.setMaster r f) ++ rest := by
  cases ws with
  | nil => exact .inl ⟨rfl, by decide⟩
  | cons f rest =>
    refine .inr ⟨_, f, rest, rfl, ?_⟩
    rw [encode, header_bits h]
    rfl

/-- R50, R53, R56: everything decoding can find after a header. -/
theorem decode_cons_cases (w : Word) (ws : List Word) :
    (decode (w :: ws) = .incomplete ∧ ws.length + 1 < cmdLength (opcodeOf w)) ∨
    (∃ i rest, decode (w :: ws) = .command i rest ∧ w :: ws = encode i ++ rest ∧
      (encode i).length = cmdLength (opcodeOf w)) ∨
    (decode (w :: ws) = .unknown (opcodeOf w) ws ∧ cmdLength (opcodeOf w) = 1) := by
  by_cases h20 : opcodeOf w = 0x20#8
  · rw [cmdLength, if_pos h20, decode, if_pos h20]
    rcases decodeNoteCmd_cases h20 ws with ⟨hd, hlt⟩ | ⟨n, rest, hd, hws⟩
    · exact .inl ⟨hd, hlt⟩
    · exact .inr (.inl ⟨_, rest, hd, hws, rfl⟩)
  by_cases h43 : opcodeOf w = 0x43#8
  · rw [cmdLength, if_neg h20, if_pos h43, decode, if_neg h20, if_pos h43]
    rcases decodeMasterCmd_cases h43 ws with ⟨hd, hlt⟩ | ⟨r, f, rest, hd, hws⟩
    · exact .inl ⟨hd, hlt⟩
    · exact .inr (.inl ⟨_, rest, hd, hws, rfl⟩)
  rw [cmdLength, if_neg h20, if_neg h43]
  cases hw : decodeOneWord w with
  | some i =>
    have he := encode_of_decodeOneWord hw
    exact .inr (.inl ⟨i, ws, decode_oneWord ws h20 h43 hw, by rw [he, List.singleton_append], by rw [he]; rfl⟩)
  | none => exact .inr (.inr ⟨by rw [decode, if_neg h20, if_neg h43, hw], rfl⟩)

/-- R50, R56: decoding waits exactly while fewer words stand in the stream than the header's opcode asks for. -/
theorem decode_cons_eq_incomplete_iff (w : Word) (ws : List Word) :
    decode (w :: ws) = .incomplete ↔ ws.length + 1 < cmdLength (opcodeOf w) := by
  rcases decode_cons_cases w ws with ⟨hd, hlt⟩ | ⟨i, rest, hd, hws, hlen⟩ | ⟨hd, hlen⟩
  · exact iff_of_true hd hlt
  · refine iff_of_false (by rw [hd]; nofun) ?_
    rw [← hlen, ← List.length_cons, hws, List.length_append]
    omega
  · exact iff_of_false (by rw [hd]; nofun) (by omega)

/-- R50, R53: a command's words are its encoding, as long as the header's opcode says. -/
theorem eq_encode_of_decode_cons {w : Word} {ws rest : List Word} {i : Instr} (h : decode (w :: ws) = .command i rest) :
    w :: ws = encode i ++ rest ∧ (encode i).length = cmdLength (opcodeOf w) := by
  rcases decode_cons_cases w ws with ⟨hd, -⟩ | ⟨i', rest', hd, hws⟩ | ⟨hd, -⟩
  · cases hd.symm.trans h
  · cases hd.symm.trans h
    exact hws
  · cases hd.symm.trans h

/-- R50: the words after a command are left alone. -/
theorem rest_of_decode_cons {w : Word} {ws rest : List Word} {i : Instr} (h : decode (w :: ws) = .command i rest) :
    rest = ws.drop (cmdLength (opcodeOf w) - 1) := by
  obtain ⟨hws, hlen⟩ := eq_encode_of_decode_cons h
  calc rest = (w :: ws).drop (cmdLength (opcodeOf w)) := by rw [hws, ← hlen, List.drop_left]
    _ = ws.drop (cmdLength (opcodeOf w) - 1) := List.drop_cons (cmdLength_pos _)

/-- R50, R54: an unknown opcode is a one-word command. -/
theorem eq_of_decode_cons_unknown {w : Word} {ws rest : List Word} {op : BitVec 8}
    (h : decode (w :: ws) = .unknown op rest) : cmdLength (opcodeOf w) = 1 ∧ op = opcodeOf w ∧ rest = ws := by
  rcases decode_cons_cases w ws with ⟨hd, -⟩ | ⟨i, rest', hd, -⟩ | ⟨hd, hlen⟩
  · cases hd.symm.trans h
  · cases hd.symm.trans h
  · cases hd.symm.trans h
    exact ⟨hlen, rfl, rfl⟩

/-! ### The statements -/

/-- Settles O1, from the round trip of each command. -/
theorem decodeOfEncodeIsTheCommand : Obligations.DecodeOfEncodeIsTheCommand := by
  unfold Obligations.DecodeOfEncodeIsTheCommand
  exact decode_encode

/-- Settles O2, from what decoding can find after a header. -/
theorem decodedWordsAreTheEncoding : Obligations.DecodedWordsAreTheEncoding := by
  unfold Obligations.DecodedWordsAreTheEncoding
  intro ws rest i h
  cases ws with
  | nil => cases h
  | cons w ws => exact (eq_encode_of_decode_cons h).1

/-- Settles O4, from what decoding can find after a header. -/
theorem lengthDependsOnOpcodeAlone : Obligations.LengthDependsOnOpcodeAlone := by
  unfold Obligations.LengthDependsOnOpcodeAlone
  exact fun w ws => ⟨decode_cons_eq_incomplete_iff w ws, fun _ _ => rest_of_decode_cons,
    fun _ _ => eq_of_decode_cons_unknown⟩

/-- Settles O3: each example is decoded by evaluation. -/
theorem specExamplesDecode : Obligations.SpecExamplesDecode := by
  unfold Obligations.SpecExamplesDecode
  decide

/-- Settles O12: decoding waits for the missing words, and the host does nothing. -/
theorem partialCommandWaits : Obligations.PartialCommandWaits := by
  unfold Obligations.PartialCommandWaits
  intro s w ws hs hpart hhost
  have hd : decode s.stream = .incomplete := by
    rw [hs, decode_cons_eq_incomplete_iff]
    rcases hpart with ⟨hop, hlt⟩ | ⟨hop, rfl⟩
    · rw [hop]
      exact Nat.succ_lt_succ hlt
    · rw [hop]
      decide
  rw [Machine.step, hd]
  dsimp only [Machine.hostStep]
  rw [hhost]

end Sys2Proof
end

section
/-! PROOFS. The reserved bits (R54, R55): the masks read the reserved fields, st.rsv records the commands that
are not well formed, and a reserved bit changes nothing else. -/

namespace Sys2Proof.Machine

/-! ### The masks of R55 -/

/-- The word whose bits are those of the field of `n` bits from bit `lo` up. -/
def fieldMask (lo n : Nat) : Word := (BitVec.allOnes n).setWidth 32 <<< lo

theorem getLsbD_fieldMask (lo n i : Nat) : (fieldMask lo n).getLsbD i = decide (i < 32 ∧ lo ≤ i ∧ i < lo + n) := by
  simp only [fieldMask, BitVec.getLsbD_shiftLeft, BitVec.getLsbD_setWidth, BitVec.getLsbD_allOnes]
  grind

/-- A word has no bit under a field's mask exactly when the field is 0. -/
theorem and_fieldMask_eq_zero_iff (w : Word) (lo n : Nat) : w &&& fieldMask lo n = 0#32 ↔ bits lo n w = 0#n := by
  constructor
  · intro h
    apply bits_eq
    intro i hi
    rw [BitVec.getLsbD_zero]
    by_cases h32 : lo + i < 32
    · have hb : (w &&& fieldMask lo n).getLsbD (lo + i) = false := by rw [h, BitVec.getLsbD_zero]
      rwa [BitVec.getLsbD_and, getLsbD_fieldMask, decide_eq_true ⟨h32, by omega, by omega⟩, Bool.and_true] at hb
    · exact BitVec.getLsbD_of_ge _ _ (Nat.not_lt.1 h32)
  · intro h
    apply BitVec.eq_of_getLsbD_eq
    intro i hi
    rw [BitVec.getLsbD_and, getLsbD_fieldMask, BitVec.getLsbD_zero]
    by_cases hin : lo ≤ i ∧ i < lo + n
    · have hn : i - lo < n := by omega
      have hb : (bits lo n w).getLsbD (i - lo) = false := by rw [h, BitVec.getLsbD_zero]
      rw [getLsbD_bits, decide_eq_true hn, Nat.add_sub_cancel' hin.1] at hb
      rw [← Bool.true_and (w.getLsbD i), hb, Bool.false_and]
    · rw [decide_eq_false fun hk => hin hk.2, Bool.and_false]

theorem and_fieldMask_bne_zero (w : Word) (lo n : Nat) : (w &&& fieldMask lo n != 0#32) = (bits lo n w != 0) := by
  rw [Bool.eq_iff_iff, bne_iff_ne, bne_iff_ne]
  exact (and_fieldMask_eq_zero_iff w lo n).not

/-- Two fields under one mask. -/
theorem and_or_bne_zero (w m m' : Word) : (w &&& (m ||| m') != 0#32) = ((w &&& m != 0#32) || (w &&& m' != 0#32)) := by
  rw [Bool.eq_iff_iff, BitVec.and_or_distrib_left]
  simp only [bne_iff_ne, Bool.or_eq_true, Ne, BitVec.or_eq_zero_iff, not_and_or]

/-- A command whose reserved bits are one field of its header. -/
theorem rsvMaskHit_of_field {i : Instr} {lo n : Nat} {r : BitVec n} (hm : rsvMasks i = [(0, fieldMask lo n)])
    (hr : bits lo n ((encode i).getD 0 0) = r) : rsvMaskHit i = (r != 0) := by
  rw [rsvMaskHit, hm, List.any_cons, List.any_nil, Bool.or_false, and_fieldMask_bne_zero, hr]

theorem rsvMaskHit_chStop (hi : BitVec 4) (c : ChanIdx) (lo : BitVec 16) :
    rsvMaskHit (.chStop hi c lo) = (hi != 0 || lo != 0) := by
  obtain ⟨hhi, -, hlo⟩ := chStop_fields hi c lo
  have hm : 0x00F0FFFF#32 = fieldMask 20 4 ||| fieldMask 0 16 := by decide
  rw [rsvMaskHit, rsvMasks, encode, List.any_cons, List.any_nil, Bool.or_false, hm, and_or_bne_zero,
    and_fieldMask_bne_zero, and_fieldMask_bne_zero, List.getD_cons_zero, hhi, hlo]

theorem rsvMaskHit_note (n : NoteFields) : rsvMaskHit (.note n) = !n.reservedZero := by
  have hm0 : 0x00018080#32 = fieldMask 15 2 ||| fieldMask 7 1 := by decide
  have hm2 : 0x00008080#32 = fieldMask 15 1 ||| fieldMask 7 1 := by decide
  have hm3 : 0x80808080#32 = fieldMask 31 1 ||| fieldMask 23 1 ||| fieldMask 15 1 ||| fieldMask 7 1 := by decide
  have hn := decodeNote_words n
  have hA : bits 15 2 (noteWord0 n) = n.rsvA := congrArg NoteFields.rsvA hn
  have hB : bits 7 1 (noteWord0 n) = n.rsvB := congrArg NoteFields.rsvB hn
  have hC : bits 15 1 (noteWord2 n) = n.rsvC := congrArg NoteFields.rsvC hn
  have hD : bits 7 1 (noteWord2 n) = n.rsvD := congrArg NoteFields.rsvD hn
  have hE : bits 31 1 (noteWord3 n) = n.rsvE := congrArg NoteFields.rsvE hn
  have hF : bits 23 1 (noteWord3 n) = n.rsvF := congrArg NoteFields.rsvF hn
  have hG : bits 15 1 (noteWord3 n) = n.rsvG := congrArg NoteFields.rsvG hn
  have hH : bits 7 1 (noteWord3 n) = n.rsvH := congrArg NoteFields.rsvH hn
  have hw : rsvMaskHit (.note n) = ((noteWord0 n &&& 0x00018080#32 != 0#32) ||
      ((noteWord2 n &&& 0x00008080#32 != 0#32) || ((noteWord3 n &&& 0x80808080#32 != 0#32) || false))) := rfl
  rw [hw, hm0, hm2, hm3]
  simp only [and_or_bne_zero, and_fieldMask_bne_zero, hA, hB, hC, hD, hE, hF, hG, hH]
  simp only [NoteFields.reservedZero, Bool.not_and, Bool.or_assoc, Bool.or_false, bne]

/-- R55: the masks read the reserved fields, format by format. -/
theorem rsvMaskHit_eq (i : Instr) : rsvMaskHit i = !i.reservedZero := by
  cases i with
  | nop | chTick | emulate | fadeIn | fadeOut | fadeReset | clrStatus | setMaster =>
    exact rsvMaskHit_of_field (lo := 0) rfl (bits_header _ _)
  | trkInit | trkTick => exact rsvMaskHit_of_field (lo := 0) rfl (bits_fmtT _ _ _)
  | trkVolume | trkExpression | trkPan => exact rsvMaskHit_of_field (lo := 7) rfl (rsv_fmtV7 _ _ _ _)
  | trkPriority | trkTranspose | trkPitchbend | trkBendrange | trkLfodepth | trkLfospeed | trkLforange | trkAttack
  | trkDecay | trkSustain | trkRelease => exact rsvMaskHit_of_field (lo := 8) rfl (rsv_fmtI8 _ _ _ _)
  | trkLfotype => exact rsvMaskHit_of_field (lo := 2) rfl (rsv_fmtE2 _ _ _ _)
  | trkWaitnote | trkMute => exact rsvMaskHit_of_field (lo := 1) rfl (rsv_fmtB1 _ _ _ _)
  | trkLfodelay => exact rsvMaskHit_of_field (lo := 16) rfl (rsv_fmtI16 _ _ _ _)
  | process r toRec toOut => exact rsvMaskHit_of_field (lo := 2) rfl (process_fields r toRec toOut).1
  | chStop hi c lo =>
    rw [rsvMaskHit_chStop]
    exact (Bool.not_and ..).symm
  | note n => exact rsvMaskHit_note n

/-! ### What commands do to the status registers -/

theorem lfoTypeOf_eq_none_iff (k : BitVec 2) : lfoTypeOf k = none ↔ k = 3 := by
  revert k
  decide

theorem instrTypeCode_beq_three (ty : InstrType) : (instrTypeCode ty == 3) = false := by
  cases ty <;> rfl

/-- R103: what is refused for its sign bit or its exponent lies above 65536.0 too, read as a number. -/
theorem masterRefused_eq (f : Binary32) : masterRefused f = !decide (f.toNat ≤ 0x47800000) := by
  by_cases h : f.toNat ≤ 0x47800000
  · have hsign : f.getLsbD 31 = false := Nat.testBit_lt_two_pow (by omega)
    have hexp : bits 23 8 f ≠ 0xFF#8 := by
      intro he
      have hn : f.toNat / 2 ^ 23 % 2 ^ 8 = 0xFF := by
        rw [← Nat.shiftRight_eq_div_pow, ← BitVec.extractLsb'_toNat]
        exact congrArg BitVec.toNat he
      omega
    rw [masterRefused, hsign, beq_false_of_ne hexp, decide_eq_false (Nat.not_lt.2 h), decide_eq_true h]
    rfl
  · simp only [masterRefused, decide_eq_true (Nat.not_le.1 h), Bool.or_true, decide_eq_false h, Bool.not_false]

/-- R98: after its reserved-bit check a NOTE raises RSV for the type 3 alone. -/
theorem noteStart_rsv (P : Params) (n : NoteFields) (s : State) :
    (noteStart P n s).st.rsv = (s.st.rsv || n.typ == 3) := by
  rcases noteStart_cases P s n with ⟨ht, h⟩ | ⟨ty, ht, -, h⟩ | ⟨ty, c, ht, -, h⟩
  · rw [h, ht]
    exact (Bool.or_true _).symm
  · rw [h, noteDrop_st, ← ht, instrTypeCode_beq_three, Bool.or_false]
  · rw [h, noteTake_st, ← ht, instrTypeCode_beq_three, Bool.or_false]

/-- R118: the commands that write status registers besides `st.rsv`. -/
def WritesStatus : Instr → Prop
  | .note _ | .clrStatus _ => True
  | _ => False

theorem wf_of_operandsValid {i : Instr} (h : i.operandsValid = true) : i.wf = i.reservedZero := by
  rw [Instr.wf, h, Bool.and_true]

/-- R54, R119: every other command completes, and of the status registers it writes `st.rsv` alone, which it raises
when it is not well formed. -/
theorem exec_rsvOnly {i : Instr} (hi : ¬ WritesStatus i) (s : State) :
    ∃ s', exec i s = .next s' ∧ RsvOnly s s' (!i.wf) := by
  cases i with
  | note | clrStatus => exact absurd trivial hi
  | trkLfotype t r k =>
    dsimp only [exec, execTrkLfotype]
    split
    · rename_i hk
      rw [lfoTypeOf_eq_none_iff] at hk
      exact ⟨_, rfl, by simp [RsvOnly, Instr.wf, Instr.operandsValid, hk]⟩
    · rename_i hk
      have hk : k ≠ 3 := fun h => by simp [(lfoTypeOf_eq_none_iff k).2 h] at hk
      exact ⟨_, rfl, by rw [wf_of_operandsValid (i := .trkLfotype t r k) (bne_iff_ne.2 hk)]; rfl⟩
  | setMaster r f =>
    dsimp only [exec, execSetMaster]
    split
    · rename_i hf
      rw [masterRefused_eq, Bool.not_eq_true'] at hf
      exact ⟨_, rfl, by simp [RsvOnly, Instr.wf, Instr.operandsValid, hf]⟩
    · rename_i hf
      rw [masterRefused_eq, Bool.not_eq_true', Bool.not_eq_false] at hf
      exact ⟨_, rfl, by rw [wf_of_operandsValid (i := .setMaster r f) hf]; rfl⟩
  | trkTick t r => exact ⟨_, rfl, by rw [RsvOnly, trackTick_st, wf_of_operandsValid rfl]; rfl⟩
  | chStop hi c lo =>
    refine ⟨_, rfl, ?_⟩
    rw [RsvOnly, chStopEffect_st, wf_of_operandsValid rfl, Instr.reservedZero, Bool.not_and]
    rfl
  | _ => exact ⟨_, rfl, by rw [wf_of_operandsValid rfl]; rfl⟩

/-- Settles O7: NOTE adds its type to the reserved bits, CLR_STATUS checks them after the clear, and the other
commands write `st.rsv` alone. -/
theorem rsvRaisedExactlyByIllFormedCommands : Obligations.RsvRaisedExactlyByIllFormedCommands := by
  unfold Obligations.RsvRaisedExactlyByIllFormedCommands
  intro i s
  by_cases hi : WritesStatus i
  · cases i with
    | note n =>
      refine ⟨_, rfl, ?_⟩
      rw [noteStart_rsv]
      simp only [State.rsvCheck_st, Instr.wf, Instr.reservedZero, Instr.operandsValid, Bool.not_and, Bool.or_assoc, bne,
        Bool.not_not]
    | clrStatus r => exact ⟨_, rfl, by rw [wf_of_operandsValid rfl]; rfl⟩
    | _ => exact hi.elim
  · obtain ⟨s', he, hst⟩ := exec_rsvOnly hi s
    refine ⟨s', he, ?_⟩
    rw [hst]
    cases i with
    | clrStatus => exact absurd trivial hi
    | _ => rfl

/-- Settles O6: the masks read the reserved fields, and a command with a reserved bit is not well formed. -/
theorem reservedMasksRaiseRsv : Obligations.ReservedMasksRaiseRsv := by
  unfold Obligations.ReservedMasksRaiseRsv
  refine ⟨rsvMaskHit_eq, fun i s h => ?_⟩
  rw [rsvMaskHit_eq, Bool.not_eq_true'] at h
  obtain ⟨s', he, hrsv⟩ := rsvRaisedExactlyByIllFormedCommands i s
  refine ⟨s', he, hrsv.trans ?_⟩
  rw [Instr.wf, h, Bool.false_and]
  split
  · rfl
  · exact Bool.or_true _

/-! ### Reserved bits read as 0 -/

theorem rsvCheck_false (s : State) : s.rsvCheck false = s := by
  rw [State.rsvCheck, Bool.or_false]

theorem rsvCheck_zero {n : Nat} (s : State) : s.rsvCheck ((0 : BitVec n) != 0) = s := by
  rw [bne_self_eq_false, rsvCheck_false]

/-- R54 (b), R55: reserved bits add one thing to a command, the check before it. CLR_STATUS clears what the check has
raised, so it is apart. -/
theorem exec_eq_exec_clearRsv {i : Instr} (hi : ∀ r, i ≠ .clrStatus r) (s : State) :
    exec i s = exec i.clearRsv (s.rsvCheck (!i.reservedZero)) := by
  cases i with
  | clrStatus r => exact absurd rfl (hi r)
  | nop => exact congrArg Host.Outcome.next (rsvCheck_zero _).symm
  | trkInit t => exact congrArg (Host.Outcome.next ∘ trackInit t) (rsvCheck_zero _).symm
  | trkTick t => exact congrArg (Host.Outcome.next ∘ trackTick t) (rsvCheck_zero _).symm
  | note n => exact congrArg (Host.Outcome.next ∘ noteStart Config.params n) (rsvCheck_false _).symm
  | chTick => exact congrArg (Host.Outcome.next ∘ chTickAll Config.params) (rsvCheck_zero _).symm
  | process r toRec toOut =>
    exact congrArg (Host.Outcome.next ∘ processBuffer Config.params toRec toOut) (rsvCheck_zero _).symm
  | emulate => exact congrArg (Host.Outcome.next ∘ emulateBuffer Config.params) (rsvCheck_zero _).symm
  | chStop rsvHi c rsvLo =>
    rw [Instr.reservedZero, Bool.not_and]
    exact congrArg (Host.Outcome.next ∘ chStopEffect c) (rsvCheck_false _).symm
  | trkVolume t | trkExpression t | trkPriority t | trkPan t | trkTranspose t | trkPitchbend t | trkBendrange t
  | trkLfodepth t | trkLfospeed t | trkLforange t | trkLfodelay t | trkAttack t | trkDecay t | trkSustain t
  | trkRelease t | trkWaitnote t =>
    change _ = Host.Outcome.next (((s.rsvCheck _).rsvCheck _).modTrk t _)
    rw [rsvCheck_zero]
    rfl
  | trkMute | fadeIn | fadeOut | fadeReset =>
    change _ = Host.Outcome.next (((s.rsvCheck _).rsvCheck _).modMix _)
    rw [rsvCheck_zero]
    rfl
  | trkLfotype t r k =>
    dsimp only [exec, Instr.clearRsv, execTrkLfotype]
    rw [rsvCheck_zero]
    rfl
  | setMaster r f =>
    dsimp only [exec, Instr.clearRsv, execSetMaster]
    rw [rsvCheck_zero]
    rfl

/-- State `b` is state `a` but for `st.rsv`. -/
def DifferInRsv (a b : State) : Prop := ∃ x, b = { a with st := { a.st with rsv := x } }

namespace DifferInRsv

variable {a b : State}

theorem differInStatus (h : DifferInRsv a b) : DifferInStatus a b := by
  obtain ⟨x, rfl⟩ := h
  exact ⟨_, rfl⟩

theorem of_differInStatus (h : DifferInStatus a b) {x : Bool} (hst : b.st = { a.st with rsv := x }) :
    DifferInRsv a b := by
  obtain ⟨_, rfl⟩ := h
  exact ⟨x, by rw [← hst]⟩

theorem rsvCheck (h : DifferInRsv a b) (bad : Bool) : DifferInRsv (a.rsvCheck bad) (b.rsvCheck bad) := by
  obtain ⟨x, rfl⟩ := h
  exact ⟨x || bad, rfl⟩

theorem withRsv_eq (h : DifferInRsv a b) :
    { a with st := { a.st with rsv := false } } = { b with st := { b.st with rsv := false } } := by
  obtain ⟨_, rfl⟩ := h
  rfl

theorem noteStart (h : DifferInRsv a b) (P : Params) (n : NoteFields) :
    DifferInRsv (noteStart P n a) (noteStart P n b) := by
  unfold Machine.noteStart
  split
  · obtain ⟨x, rfl⟩ := h
    exact ⟨true, rfl⟩
  · rw [h.differInStatus.arbitrate_eq]
    have hs := h.differInStatus
    obtain ⟨x, rfl⟩ := h
    split
    · exact ⟨x, rfl⟩
    · exact of_differInStatus (hs.noteTake P n _ _) (by rw [noteTake_st, noteTake_st]; rfl)

/-- R29, R118: no command writes another register for what `st.rsv` holds. -/
theorem exec (h : DifferInRsv a b) (i : Instr) :
    ∃ a' b', exec i a = .next a' ∧ exec i b = .next b' ∧ DifferInRsv a' b' := by
  by_cases hi : WritesStatus i
  · cases i with
    | note n => exact ⟨_, _, rfl, rfl, (h.rsvCheck _).noteStart _ n⟩
    | clrStatus r =>
      obtain ⟨x, rfl⟩ := h
      exact ⟨_, _, rfl, rfl, _, rfl⟩
    | _ => exact hi.elim
  · obtain ⟨a', b', ha, hb, hs⟩ := h.differInStatus.exec i
    obtain ⟨a₁, ha₁, hast⟩ := exec_rsvOnly hi a
    obtain ⟨b₁, hb₁, hbst⟩ := exec_rsvOnly hi b
    cases ha.symm.trans ha₁
    cases hb.symm.trans hb₁
    obtain ⟨x, rfl⟩ := h
    exact ⟨a', b', ha, hb, of_differInStatus hs (by rw [hast, hbst])⟩

end DifferInRsv

/-- Settles O8: the check that reserved bits add changes `st.rsv` alone, and so does the command after it. -/
theorem reservedBitsReadAsZero : Obligations.ReservedBitsReadAsZero := by
  unfold Obligations.ReservedBitsReadAsZero
  intro i s
  by_cases hi : ∃ r, i = .clrStatus r
  · obtain ⟨r, rfl⟩ := hi
    exact ⟨_, _, rfl, rfl, rfl⟩
  · rw [exec_eq_exec_clearRsv (fun r hr => hi ⟨r, hr⟩)]
    obtain ⟨a', b', ha, hb, h⟩ := DifferInRsv.exec (a := s) ⟨_, rfl⟩ i.clearRsv
    exact ⟨b', a', hb, ha, h.withRsv_eq.symm⟩

end Sys2Proof.Machine
end

section
/-! PROOFS. The track commands (R60 to R79): one rule for the commands that write a track register, the two
commands that also reach the channels a track owns, and the LFO with the three quantities it modulates. -/

namespace Sys2Proof.Machine

/-! ### Decoding -/

/-- R53: the one-word commands named by an opcode below 0x20, the track commands among them. -/
theorem decode_of_opcode_lt {op : BitVec 8} {w : Word} {i : Instr} (hop : op < 0x20#8) (hw : opcodeOf w = op)
    (hi : decodeOneWord w = some i) (rest : List Word) : decode (w :: rest) = .command i rest := by
  have h20 : op ≠ 0x20#8 := by bv_omega
  have h43 : op ≠ 0x43#8 := by bv_omega
  exact decode_oneWord rest (hw ▸ h20) (hw ▸ h43) hi

/-! ### Commands that write one track -/

theorem trackWritten_rsvCheck_modTrk (s : State) (t : TrackIdx) (f : Track → Track) (bad : Bool) :
    TrackWritten s ((s.rsvCheck bad).modTrk t f) t (f (s.trk t)) bad where
  written := State.modTrk_trk_same _ t f
  others _ hu := State.modTrk_trk_other _ hu f
  channels := rfl
  mix := rfl
  status := rfl
  around := ⟨rfl, rfl, rfl, rfl, rfl, rfl⟩

/-- R54 (c): an invalid operand leaves the register as it is and raises RSV, whatever the reserved bits are. -/
theorem trackWritten_raiseRsv (s : State) (t : TrackIdx) (bad : Bool) :
    TrackWritten s (s.rsvCheck bad).raiseRsv t (s.trk t) true where
  written := rfl
  others _ _ := rfl
  channels := rfl
  mix := rfl
  status := by simp [RsvOnly]
  around := ⟨rfl, rfl, rfl, rfl, rfl, rfl⟩

/-- R55, R60: a command whose meaning is the check of one reserved field and an update of the track its word names. -/
theorem writesTrack_of_exec {op : BitVec 8} {mask : Word} {mk : Word → Instr} {upd : Word → Track → Track}
    (lo n : Nat) (hop : op < 0x20#8) (hmask : fieldMask lo n = mask)
    (hexec : ∀ w s, exec (mk w) s = .next ((s.rsvCheck (bits lo n w != 0)).modTrk (trackOf w) (upd w)))
    (hdecode : ∀ w, opcodeOf w = op → decodeOneWord w = some (mk w)) : WritesTrack op mask mk upd := by
  intro s w rest hw
  refine ⟨decode_of_opcode_lt hop hw (hdecode w hw) rest, _, hexec w s, ?_⟩
  rw [← hmask, and_fieldMask_bne_zero]
  exact trackWritten_rsvCheck_modTrk s _ _ _

/-- Settles O22, by the rule for track writes. -/
theorem trackLevelWrites : Obligations.TrackLevelWrites := by
  unfold Obligations.TrackLevelWrites
  refine ⟨writesTrack_of_exec 7 13 (by decide) rfl (fun _ _ => rfl) ?_,
    writesTrack_of_exec 7 13 (by decide) rfl (fun _ _ => rfl) ?_,
    writesTrack_of_exec 8 12 (by decide) rfl (fun _ _ => rfl) ?_,
    writesTrack_of_exec 7 13 (by decide) rfl (fun _ _ => rfl) ?_, toInt_centred⟩
  all_goals
    intro w hw
    simp only [decodeOneWord, hw]

/-- Settles O23, by the rule for track writes. -/
theorem trackPitchWrites : Obligations.TrackPitchWrites := by
  unfold Obligations.TrackPitchWrites
  refine ⟨writesTrack_of_exec 8 12 (by decide) rfl (fun _ _ => rfl) ?_,
    writesTrack_of_exec 8 12 (by decide) rfl (fun _ _ => rfl) ?_,
    writesTrack_of_exec 8 12 (by decide) rfl (fun _ _ => rfl) ?_⟩
  all_goals
    intro w hw
    simp only [decodeOneWord, hw]

/-- Settles O24, by the rule for track writes. -/
theorem trackLfoWrites : Obligations.TrackLfoWrites := by
  unfold Obligations.TrackLfoWrites
  refine ⟨writesTrack_of_exec 8 12 (by decide) rfl (fun _ _ => rfl) ?_,
    writesTrack_of_exec 8 12 (by decide) rfl (fun _ _ => rfl) ?_,
    writesTrack_of_exec 8 12 (by decide) rfl (fun _ _ => rfl) ?_,
    writesTrack_of_exec 16 4 (by decide) rfl (fun _ _ => rfl) ?_⟩
  all_goals
    intro w hw
    simp only [decodeOneWord, hw]

/-- Settles O26, by the rule for track writes. -/
theorem trackEnvelopeWrites : Obligations.TrackEnvelopeWrites := by
  unfold Obligations.TrackEnvelopeWrites
  refine ⟨writesTrack_of_exec 8 12 (by decide) rfl (fun _ _ => rfl) ?_,
    writesTrack_of_exec 8 12 (by decide) rfl (fun _ _ => rfl) ?_,
    writesTrack_of_exec 8 12 (by decide) rfl (fun _ _ => rfl) ?_,
    writesTrack_of_exec 8 12 (by decide) rfl (fun _ _ => rfl) ?_,
    writesTrack_of_exec 1 19 (by decide) rfl (fun _ _ => rfl) ?_⟩
  all_goals
    intro w hw
    simp only [decodeOneWord, hw]

/-! ### TRK_LFOTYPE -/

theorem lfoTypeOf_lfoTypeCode (k : LfoType) : lfoTypeOf (lfoTypeCode k) = some k := by
  cases k <;> rfl

theorem exec_trkLfotype_three (t : TrackIdx) (r : BitVec 18) (s : State) :
    exec (.trkLfotype t r 3#2) s = .next (s.rsvCheck (r != 0)).raiseRsv := rfl

theorem exec_trkLfotype_code (t : TrackIdx) (r : BitVec 18) (k : LfoType) (s : State) :
    exec (.trkLfotype t r (lfoTypeCode k)) s =
      .next ((s.rsvCheck (r != 0)).modTrk t fun x => { x with lfoType := k }) := by
  dsimp only [exec, execTrkLfotype]
  rw [lfoTypeOf_lfoTypeCode]

theorem lfoTypeCode_of_lfoTypeOf {k : BitVec 2} {ty : LfoType} (h : lfoTypeOf k = some ty) : lfoTypeCode ty = k := by
  revert k ty
  decide

/-- R68: a two-bit operand is 3 or the number of one type. -/
theorem eq_three_or_lfoTypeCode (k : BitVec 2) : k = 3#2 ∨ ∃ ty, lfoTypeCode ty = k := by
  cases h : lfoTypeOf k with
  | none => exact .inl ((lfoTypeOf_eq_none_iff k).1 h)
  | some ty => exact .inr ⟨ty, lfoTypeCode_of_lfoTypeOf h⟩

theorem lfoTypeCode_ne_three (k : LfoType) : lfoTypeCode k ≠ 3#2 := by
  cases k <;> decide

theorem lfoTypeCode_injective : Function.Injective lfoTypeCode := fun j k h =>
  Option.some.inj (by rw [← lfoTypeOf_lfoTypeCode j, h, lfoTypeOf_lfoTypeCode])

/-- Settles O25: the operand is 3 or the number of a type, and each has its meaning. -/
theorem lfoTypeWrite : Obligations.LfoTypeWrite := by
  unfold Obligations.LfoTypeWrite
  intro s w rest hw
  have hmask : ((w &&& 0x000FFFFC#32) != 0#32) = (bits 2 18 w != 0) := and_fieldMask_bne_zero w 2 18
  refine ⟨decode_of_opcode_lt (by decide) hw (by simp only [decodeOneWord, hw]) rest, ?_⟩
  rw [hmask]
  rcases eq_three_or_lfoTypeCode (bits 0 2 w) with h3 | ⟨ty, hty⟩
  · rw [h3]
    exact ⟨_, exec_trkLfotype_three _ _ s, fun _ => trackWritten_raiseRsv s _ _,
      fun k hk => absurd hk (lfoTypeCode_ne_three k)⟩
  · rw [← hty]
    refine ⟨_, exec_trkLfotype_code _ _ ty s, fun h => absurd h (lfoTypeCode_ne_three ty), fun k hk => ?_⟩
    rw [lfoTypeCode_injective hk]
    exact trackWritten_rsvCheck_modTrk s _ _ _

/-! ### TRK_INIT -/

/-- R55: the reserved bits of format T are one field. -/
theorem and_formatTMask_bne_zero (w : Word) : ((w &&& 0x000FFFFF#32) != 0#32) = (bits 0 20 w != 0) :=
  and_fieldMask_bne_zero w 0 20

theorem initChannel_of_owned {t : TrackIdx} {c : Channel} (h : c.owner = some t) : initChannel t c = c.stop := if_pos h

theorem initChannel_of_not_owned {t : TrackIdx} {c : Channel} (h : c.owner ≠ some t) : initChannel t c = c := if_neg h

theorem trackInit_trk_same (s : State) (t : TrackIdx) : (trackInit t s).trk t = Track.defaults := by
  rw [trackInit_trk, if_pos rfl]

theorem trackInit_trk_other (s : State) {t u : TrackIdx} (h : u ≠ t) : (trackInit t s).trk u = s.trk u := by
  rw [trackInit_trk, if_neg h.symm]

theorem trackInit_sameAround (s : State) (t : TrackIdx) (bad : Bool) :
    SameAround s (trackInit t (s.rsvCheck bad)) where
  audioQ := trackInit_audioQ _ t
  recQ := trackInit_recQ _ t
  stream := trackInit_stream _ t
  pos := trackInit_pos _ t
  host := trackInit_host _ t
  rx := trackInit_rx _ t

/-- Settles O27, from what TRK_INIT writes and its frame. -/
theorem trackInitResetsAndStops : Obligations.TrackInitResetsAndStops := by
  unfold Obligations.TrackInitResetsAndStops
  intro s w rest hw t
  have hdecode : decode (w :: rest) = .command (.trkInit (trackOf w) (bits 0 20 w)) rest :=
    decode_of_opcode_lt (by decide) hw (by simp only [decodeOneWord, hw]) rest
  rw [and_formatTMask_bne_zero]
  refine ⟨hdecode, _, rfl, trackInit_trk_same _ t, fun u hu => trackInit_trk_other _ hu, fun c hc => ?_, fun c hc => ?_,
    trackInit_mix _ t, trackInit_st _ t, trackInit_sameAround s t _⟩
  · rw [trackInit_ch, State.rsvCheck_ch, initChannel_of_owned hc, Channel.stop]
  · rw [trackInit_ch, State.rsvCheck_ch, initChannel_of_not_owned hc]

/-! ### TRK_TICK -/

theorem tickDur_toInt (d : BitVec 32) : (tickDur d).toInt = if 0 < d.toInt then d.toInt - 1 else d.toInt := by
  have hlt := BitVec.toInt_lt (x := d)
  unfold tickDur
  split
  · rw [BitVec.toInt_sub, (by decide : (1 : BitVec 32).toInt = 1), Int.bmod_eq_of_le (by omega) (by omega)]
  · rfl

theorem tickSweepCnt_toNat (c : Channel) : (tickSweepCnt c).toNat =
    if c.autoSweep = false ∧ c.sweepCnt.toNat < c.sweepLen.toNat then c.sweepCnt.toNat + 1 else c.sweepCnt.toNat := by
  unfold tickSweepCnt
  split
  · bv_omega
  · rfl

theorem tickChannel_of_owned {t : TrackIdx} {c : Channel} (h : c.owner = some t) :
    tickChannel t c = { c with dur := tickDur c.dur, sweepCnt := tickSweepCnt c } := if_pos h

theorem tickChannel_of_not_owned {t : TrackIdx} {c : Channel} (h : c.owner ≠ some t) : tickChannel t c = c := if_neg h

theorem nextPhase_toNat (x : Track) :
    (nextPhase x).toNat = (x.lfoPhase.toNat + x.lfoSpeed.toNat * 64) % 0x8000 := BitVec.toNat_ofNat _ _

/-- R79: a running LFO counts its delay down, and moves its phase once the delay is over. -/
theorem tickLfo_cases (x : Track) : ∃ phase cnt, tickLfo x = { x with lfoPhase := phase, lfoDelayCnt := cnt } ∧
    if 0 < x.lfoDelayCnt.toNat then phase = x.lfoPhase ∧ cnt.toNat = x.lfoDelayCnt.toNat - 1
    else phase.toNat = (x.lfoPhase.toNat + x.lfoSpeed.toNat * 64) % 0x8000 ∧ cnt = x.lfoDelayCnt := by
  unfold tickLfo
  split
  · exact ⟨_, _, rfl, rfl, by bv_omega⟩
  · exact ⟨_, _, rfl, nextPhase_toNat x, rfl⟩

theorem State.owned_ne_nil (s : State) (t : TrackIdx) : s.owned t ≠ [] ↔ ∃ c, (s.ch c).owner = some t := by
  rw [Ne, State.owned_eq_nil, not_forall_not]

theorem trackTick_trk_other (s : State) {t u : TrackIdx} (h : u ≠ t) : (trackTick t s).trk u = s.trk u := by
  rw [trackTick_trk, if_neg h.symm]

theorem trackTick_trk_of_owner {s : State} {t : TrackIdx} (h : ∃ c, (s.ch c).owner = some t) :
    (trackTick t s).trk t = tickLfo (s.trk t) := by
  rw [trackTick_trk, if_pos rfl, if_pos ((s.owned_ne_nil t).2 h)]

theorem trackTick_trk_of_no_owner {s : State} {t : TrackIdx} (h : ¬ ∃ c, (s.ch c).owner = some t) :
    (trackTick t s).trk t = idleLfo (s.trk t) := by
  rw [trackTick_trk, if_pos rfl, if_neg (mt (s.owned_ne_nil t).1 h)]

theorem trackTick_sameAround (s : State) (t : TrackIdx) (bad : Bool) :
    SameAround s (trackTick t (s.rsvCheck bad)) where
  audioQ := trackTick_audioQ _ t
  recQ := trackTick_recQ _ t
  stream := trackTick_stream _ t
  pos := trackTick_pos _ t
  host := trackTick_host _ t
  rx := trackTick_rx _ t

/-- Settles O28, from what TRK_TICK does to each channel and to the LFO. -/
theorem trackTickCountsAndMovesLfo : Obligations.TrackTickCountsAndMovesLfo := by
  unfold Obligations.TrackTickCountsAndMovesLfo
  intro s w rest hw t x
  have hdecode : decode (w :: rest) = .command (.trkTick (trackOf w) (bits 0 20 w)) rest :=
    decode_of_opcode_lt (by decide) hw (by simp only [decodeOneWord, hw]) rest
  rw [and_formatTMask_bne_zero]
  refine ⟨hdecode, _, rfl, fun c hc => ?_, fun c hc => ?_, fun u hu => trackTick_trk_other _ hu, ?_,
    trackTick_mix _ t, trackTick_st _ t, trackTick_sameAround s t _⟩
  · rw [trackTick_ch, State.rsvCheck_ch, tickChannel_of_not_owned hc]
  · rw [trackTick_ch, State.rsvCheck_ch, tickChannel_of_owned hc]
    exact ⟨_, _, rfl, tickDur_toInt _, tickSweepCnt_toNat _⟩
  · by_cases ho : ∃ c, (s.ch c).owner = some t
    · obtain ⟨phase, cnt, he, hmoved⟩ := tickLfo_cases x
      exact ⟨phase, cnt, (trackTick_trk_of_owner (s := s.rsvCheck _) ho).trans he, by rwa [if_pos ho]⟩
    · exact ⟨_, _, trackTick_trk_of_no_owner (s := s.rsvCheck _) ho, by rw [if_neg ho]; exact ⟨rfl, rfl⟩⟩

/-! ### The LFO value and what it modulates -/

/-- R15: sign extension leaves what already lies in the range of `N + 1` bits. -/
theorem sext_of_mem_range {N : Nat} {v : Int} (hlo : -2 ^ N ≤ v) (hhi : v < 2 ^ N) : sext (N + 1) v = v := by
  have hp : (2 : Int) ^ (N + 1) = 2 * 2 ^ N := pow_succ' 2 N
  dsimp only [sext]
  rw [Nat.add_sub_cancel, hp]
  rcases le_or_gt 0 v with h0 | h0
  · rw [Int.fmod_eq_of_lt h0 (by omega), if_neg (by omega)]
  · have hf : v.fmod (2 * 2 ^ N) = v + 2 * 2 ^ N := by
      rw [← Int.add_fmod_right, Int.fmod_eq_of_lt (by omega) (by omega)]
    rw [hf, if_pos (by omega), Int.add_sub_cancel]

/-- R80: what the LFO value is the shift of: sine times depth times range. -/
def lfoProduct (P : Params) (x : Track) : Int :=
  (P.sin (x.lfoPhase.extractLsb' 8 7)).toInt * x.lfoDepth.toNat * x.lfoRange.toNat

/-- R9, R80: a sine of -128 to 127 times two bytes. -/
theorem lfoProduct_range (P : Params) (x : Track) :
    -(128 * 255 * 255) ≤ lfoProduct P x ∧ lfoProduct P x ≤ 127 * 255 * 255 := by
  have hlo := BitVec.le_toInt (P.sin (x.lfoPhase.extractLsb' 8 7))
  have hhi := BitVec.toInt_lt (x := P.sin (x.lfoPhase.extractLsb' 8 7))
  have hp : x.lfoDepth.toNat * x.lfoRange.toNat ≤ 255 * 255 :=
    Nat.mul_le_mul (Nat.le_of_lt_succ x.lfoDepth.isLt) (Nat.le_of_lt_succ x.lfoRange.isLt)
  rw [lfoProduct, mul_assoc (BitVec.toInt _), ← Nat.cast_mul]
  generalize (P.sin (x.lfoPhase.extractLsb' 8 7)).toInt = a at hlo hhi ⊢
  generalize x.lfoDepth.toNat * x.lfoRange.toNat = p at hp ⊢
  have hlow : -128 * (p : Int) ≤ a * p := Int.mul_le_mul_of_nonneg_right (by omega) (Int.natCast_nonneg p)
  have hhigh : a * p ≤ 127 * (p : Int) := Int.mul_le_mul_of_nonneg_right (by omega) (Int.natCast_nonneg p)
  omega

theorem lfoValue_eq (x : Track) : lfoValue Config.params x =
    if x.lfoDepth = 0 ∨ 0 < x.lfoDelayCnt.toNat then 0 else (lfoProduct Config.params x).fdiv 256 := by
  obtain ⟨hlo, hhi⟩ := lfoProduct_range Config.params x
  have hsext : sext 26 (lfoProduct Config.params x) = lfoProduct Config.params x :=
    sext_of_mem_range (N := 25) (by omega) (by omega)
  rw [← congrArg (Int.fdiv · 256) hsext]
  rfl

/-- Settles O29, from the bounds of the product. -/
theorem lfoValueFormulaAndRange : Obligations.LfoValueFormulaAndRange := by
  unfold Obligations.LfoValueFormulaAndRange
  intro x
  refine ⟨lfoValue_eq x, ?_⟩
  obtain ⟨hlo, hhi⟩ := lfoProduct_range Config.params x
  rw [lfoValue_eq, Int.fdiv_eq_ediv_of_nonneg _ (by decide)]
  split <;> omega

/-- Settles O30: the three track quantities as R82 to R84 write them, the clamp of the pan as a minimum and a
maximum. -/
theorem lfoGoesToOneTarget : Obligations.LfoGoesToOneTarget := by
  unfold Obligations.LfoGoesToOneTarget
  exact fun x => ⟨rfl, rfl, clamp_eq _ _ _ (by decide)⟩

end Sys2Proof.Machine
end

section
/-! PROOFS. The channel (R86 to R93): the envelope step state by state and what it converges to, the sweep, the
stop, and the commands in which an envelope state changes. -/

namespace Sys2Proof.Machine

/-! ### The envelope step, state by state -/

section EnvelopeStep

variable {c : Channel}

theorem stepEnvelope_attack_ended (hs : c.state = .attack) (h : quot ((c.atkRate.toNat : Int) * c.env) 255 = 0) :
    stepEnvelope c = { c with env := 0, state := .decay } := by
  simp only [stepEnvelope, hs, h, if_true]

theorem stepEnvelope_attack_going (hs : c.state = .attack) (h : quot ((c.atkRate.toNat : Int) * c.env) 255 ≠ 0) :
    stepEnvelope c = { c with env := quot ((c.atkRate.toNat : Int) * c.env) 255 } := by
  simp only [stepEnvelope, hs, h, if_false]

theorem stepEnvelope_decay_ended (hs : c.state = .decay) (h : c.env - c.decRate ≤ c.susLevel) :
    stepEnvelope c = { c with env := c.susLevel, state := .sustain } := by
  simp only [stepEnvelope, hs, h, if_true]

theorem stepEnvelope_decay_going (hs : c.state = .decay) (h : c.susLevel < c.env - c.decRate) :
    stepEnvelope c = { c with env := c.env - c.decRate } := by
  simp only [stepEnvelope, hs, not_le.2 h, if_false]

theorem stepEnvelope_sustain (hs : c.state = .sustain) : stepEnvelope c = c := by
  simp only [stepEnvelope, hs]

theorem stepEnvelope_release (hs : c.state = .release) :
    stepEnvelope c = { c with env := max (c.env - c.relRate) FLOOR } := by
  simp only [stepEnvelope, hs]

theorem stepEnvelope_attack_env (hs : c.state = .attack) :
    (stepEnvelope c).env = quot ((c.atkRate.toNat : Int) * c.env) 255 := by
  by_cases h : quot ((c.atkRate.toNat : Int) * c.env) 255 = 0
  · rw [stepEnvelope_attack_ended hs h, h]
  · rw [stepEnvelope_attack_going hs h]

/-- R86, R88 (e): the transitions the envelope step can make. -/
theorem stepEnvelope_state_cases (c : Channel) : (stepEnvelope c).state = c.state ∨
    (c.state = .attack ∧ (stepEnvelope c).state = .decay) ∨
    (c.state = .decay ∧ (stepEnvelope c).state = .sustain) := by
  cases hs : c.state with
  | attack =>
    by_cases h : quot ((c.atkRate.toNat : Int) * c.env) 255 = 0
    · exact .inr (.inl ⟨rfl, by rw [stepEnvelope_attack_ended hs h]⟩)
    · exact .inl (by rw [stepEnvelope_attack_going hs h, hs])
  | decay =>
    rcases le_or_gt (c.env - c.decRate) c.susLevel with h | h
    · exact .inr (.inr ⟨rfl, by rw [stepEnvelope_decay_ended hs h]⟩)
    · exact .inl (by rw [stepEnvelope_decay_going hs h, hs])
  | sustain => exact .inl (by rw [stepEnvelope_sustain hs, hs])
  | release => exact .inl (by rw [stepEnvelope_release hs, hs])

/-- R88 (e): a level at most 0 stays at most 0, in every state. -/
theorem stepEnvelope_env_nonpos (henv : c.env ≤ 0) (hsus : c.susLevel ≤ 0) : (stepEnvelope c).env ≤ 0 := by
  cases hs : c.state with
  | attack => exact stepEnvelope_attack_env hs ▸ (attackLevel_range c.atkRate henv).2
  | decay =>
    rcases le_or_gt (c.env - c.decRate) c.susLevel with h | h
    · rwa [stepEnvelope_decay_ended hs h]
    · rw [stepEnvelope_decay_going hs h]
      dsimp only
      omega
  | sustain => rwa [stepEnvelope_sustain hs]
  | release =>
    rw [stepEnvelope_release hs]
    exact max_le (by omega) floor_nonpos

end EnvelopeStep

/-- Settles O31, by the rule for each state. -/
theorem envelopeStepByState : Obligations.EnvelopeStepByState := by
  unfold Obligations.EnvelopeStepByState
  exact fun c => ⟨fun hs => ⟨stepEnvelope_attack_ended hs, stepEnvelope_attack_going hs⟩,
    fun hs => ⟨stepEnvelope_decay_ended hs, stepEnvelope_decay_going hs⟩, stepEnvelope_sustain, stepEnvelope_release⟩

/-! ### What the envelope converges to -/

/-- A goal is reached by steps that each reach it or make a measure smaller and keep a condition. -/
theorem exists_iterate_of_decreasing {α : Type} {f : α → α} {cond goal : α → Prop} (measure : α → Nat)
    (hstep : ∀ a, cond a → goal (f a) ∨ (cond (f a) ∧ measure (f a) < measure a)) (a : α) (ha : cond a) :
    ∃ n, goal (f^[n] a) := by
  induction hm : measure a using Nat.strong_induction_on generalizing a with
  | _ m ih =>
    rcases hstep a ha with hg | ⟨hc, hlt⟩
    · exact ⟨1, hg⟩
    · obtain ⟨n, hn⟩ := ih _ (hm ▸ hlt) (f a) hc rfl
      exact ⟨n + 1, hn⟩

/-- R87: the level of an attack step, as a magnitude. -/
theorem natAbs_attackLevel (rate : BitVec 8) (e : Int) :
    (quot ((rate.toNat : Int) * e) 255).natAbs = rate.toNat * e.natAbs / 255 := by
  rw [quot, Int.natAbs_tdiv, Int.natAbs_mul, Int.natAbs_natCast]
  rfl

/-- R88 (b): in Attack a rate of at most 254 makes the level strictly smaller. -/
theorem natAbs_attackLevel_lt {rate : BitVec 8} (hr : rate.toNat ≤ 254) {e : Int} (he : e ≠ 0) :
    (quot ((rate.toNat : Int) * e) 255).natAbs < e.natAbs := by
  rw [natAbs_attackLevel]
  apply Nat.div_lt_of_lt_mul
  exact Nat.mul_lt_mul_of_pos_right (Nat.lt_succ_of_le hr) (Int.natAbs_pos.2 he)

/-- R88 (b): Attack with a rate of at most 254 ends in Decay at level 0. -/
theorem attack_reaches_decay (c : Channel) (hs : c.state = .attack) (hr : c.atkRate.toNat ≤ 254) :
    ∃ n, (stepEnvelope^[n] c).state = .decay ∧ (stepEnvelope^[n] c).env = 0 := by
  refine exists_iterate_of_decreasing (cond := fun c => c.state = .attack ∧ c.atkRate.toNat ≤ 254)
    (goal := fun c => c.state = .decay ∧ c.env = 0) (fun c => c.env.natAbs) ?_ c ⟨hs, hr⟩
  rintro a ⟨hs, hr⟩
  by_cases h : quot ((a.atkRate.toNat : Int) * a.env) 255 = 0
  · exact .inl (by rw [stepEnvelope_attack_ended hs h]; exact ⟨rfl, rfl⟩)
  · have he : a.env ≠ 0 := fun he => h (by rw [he, mul_zero]; rfl)
    rw [stepEnvelope_attack_going hs h]
    exact .inr ⟨⟨hs, hr⟩, natAbs_attackLevel_lt hr he⟩

/-- Settles O33: the rate is a factor of 255ths. -/
theorem attackEnds : Obligations.AttackEnds := by
  unfold Obligations.AttackEnds
  intro c hs _ _
  refine ⟨fun hr he => ?_, attack_reaches_decay c hs, fun hr he => ?_, fun hr => ?_⟩
  · rw [stepEnvelope_attack_env hs]
    exact natAbs_attackLevel_lt hr he.ne
  · have hq : quot ((c.atkRate.toNat : Int) * c.env) 255 = c.env := by
      rw [hr]
      exact Int.mul_tdiv_cancel_left c.env (by decide)
    rw [stepEnvelope_attack_going hs (by rw [hq]; exact he.ne), hq]
  · exact stepEnvelope_attack_ended hs (by rw [hr, Nat.cast_zero, zero_mul]; rfl)

/-- R88 (c): the decay steps that lower the level to the sustain level are enough to reach Sustain. -/
theorem decay_reaches_sustain_within (n : Nat) (c : Channel) (hs : c.state = .decay)
    (h : c.env - c.susLevel ≤ (n + 1) * c.decRate) :
    ∃ k, 1 ≤ k ∧ k ≤ n + 1 ∧ stepEnvelope^[k] c = { c with env := c.susLevel, state := .sustain } := by
  induction n generalizing c with
  | zero => exact ⟨1, le_rfl, le_rfl, stepEnvelope_decay_ended hs (by push_cast at h; omega)⟩
  | succ n ih =>
    rcases le_or_gt (c.env - c.decRate) c.susLevel with hle | hgt
    · exact ⟨1, le_rfl, by omega, stepEnvelope_decay_ended hs hle⟩
    · obtain ⟨k, hk, hkn, hiter⟩ := ih { c with env := c.env - c.decRate } hs (by push_cast at h ⊢; linarith)
      exact ⟨k + 1, by omega, by omega, by
        rw [Function.iterate_succ_apply, stepEnvelope_decay_going hs hgt, hiter]⟩

/-- A count of steps of size `d` that cover the distance `a`: its quotient rounded up. -/
theorem le_ceil_mul (a : Int) {d : Int} (hd : 0 < d) : a ≤ (a + d - 1) / d * d := by
  have h := Int.lt_ediv_add_one_mul_self (a + d - 1) hd
  rw [add_mul, one_mul] at h
  omega

/-- Settles O34, with the rounded-up number of steps. -/
theorem decayReachesSustain : Obligations.DecayReachesSustain := by
  unfold Obligations.DecayReachesSustain
  intro c hs
  refine ⟨fun hd => ?_, fun hd he => ?_⟩
  · have hd : (0 : Int) < c.decRate := Int.natCast_pos.2 hd
    have hceil := le_ceil_mul (c.env - c.susLevel) hd
    generalize (c.env - c.susLevel + c.decRate - 1) / c.decRate = m at hceil ⊢
    have hn : ((max 1 m).toNat - 1 : Nat) + (1 : Int) = max 1 m := by omega
    have hcover := hceil.trans (Int.mul_le_mul_of_nonneg_right (le_max_right 1 m) hd.le)
    obtain ⟨k, hk, hkn, hiter⟩ := decay_reaches_sustain_within ((max 1 m).toNat - 1) c hs (by rwa [hn])
    exact ⟨k, hk, by omega, hiter⟩
  · have hstay : c.env - c.decRate = c.env := by omega
    rw [stepEnvelope_decay_going hs (by omega), hstay]

/-- R88 (d): a positive release rate lowers a level above the floor. -/
theorem stepEnvelope_release_env_lt {c : Channel} (hs : c.state = .release) (hr : 0 < c.relRate) (he : FLOOR < c.env) :
    (stepEnvelope c).env < c.env := by
  rw [stepEnvelope_release hs]
  exact max_lt (by omega) he

theorem floor_le_stepEnvelope_release_env {c : Channel} (hs : c.state = .release) : FLOOR ≤ (stepEnvelope c).env := by
  rw [stepEnvelope_release hs]
  exact le_max_right _ _

/-- R88 (d): Release with a positive rate ends at the floor. -/
theorem release_reaches_floor (c : Channel) (hs : c.state = .release) (hr : 0 < c.relRate) :
    ∃ n, (stepEnvelope^[n] c).env = FLOOR := by
  refine exists_iterate_of_decreasing (cond := fun c => c.state = .release ∧ 0 < c.relRate)
    (goal := fun c => c.env = FLOOR) (fun c => (c.env - FLOOR).toNat) ?_ c ⟨hs, hr⟩
  rintro a ⟨hs, hr⟩
  rcases le_or_gt (a.env - a.relRate) FLOOR with h | h
  · exact .inl (by rw [stepEnvelope_release hs]; exact max_eq_right h)
  · have hlt := stepEnvelope_release_env_lt hs hr (by omega)
    rw [stepEnvelope_release hs] at hlt ⊢
    exact .inr ⟨⟨hs, hr⟩, by dsimp only at hlt ⊢; omega⟩

/-- R86: the envelope step moves no state back. -/
theorem envStateCode_le_stepEnvelope (c : Channel) :
    (envStateCode c.state).toNat ≤ (envStateCode (stepEnvelope c).state).toNat := by
  rcases stepEnvelope_state_cases c with h | ⟨hs, h⟩ | ⟨hs, h⟩
  · rw [h]
  · rw [hs, h]
    decide
  · rw [hs, h]
    decide

/-- Settles O35: the release clauses are those of the maximum with the floor. -/
theorem releaseFallsToTheFloor : Obligations.ReleaseFallsToTheFloor := by
  unfold Obligations.ReleaseFallsToTheFloor
  intro c hfloor henv _ hsus
  refine ⟨fun hs => ⟨?_, floor_le_stepEnvelope_release_env hs⟩, stepEnvelope_release_env_lt,
    release_reaches_floor c, stepEnvelope_env_nonpos henv hsus, envStateCode_le_stepEnvelope c⟩
  rw [stepEnvelope_release hs]
  exact max_le (by omega) hfloor

/-! ### The sweep -/

/-- R90: up to its length the sweep is the linear share of the pitch, in both of its branches. -/
theorem sweepValue_eq_share {c : Channel} (h : c.sweepCnt.toNat ≤ c.sweepLen.toNat) : sweepValue c =
    (c.sweepPitch.toInt * ((c.sweepLen.toNat : Int) - c.sweepCnt.toNat)).tdiv c.sweepLen.toNat := by
  by_cases hrun : sweeping c = true
  · rw [sweepValue, if_pos hrun, quot]
  · rw [sweepValue, if_neg hrun]
    rw [sweeping_iff, not_and_or, not_ne_iff, not_lt] at hrun
    rcases hrun with hp | hend
    · have hzero : c.sweepPitch.toInt = 0 := congrArg BitVec.toInt hp
      rw [hzero, zero_mul, Int.zero_tdiv]
    · rw [le_antisymm h hend, sub_self, mul_zero, Int.zero_tdiv]

/-- R90: the sweep never exceeds the pitch it starts at. -/
theorem natAbs_sweepValue_le {c : Channel} (h : c.sweepCnt.toNat ≤ c.sweepLen.toNat) :
    (sweepValue c).natAbs ≤ c.sweepPitch.toInt.natAbs := by
  rw [sweepValue_eq_share h, Int.natAbs_tdiv, Int.natAbs_mul, Int.natAbs_natCast]
  refine Nat.div_le_of_le_mul ?_
  rw [mul_comm c.sweepLen.toNat]
  exact Nat.mul_le_mul_left _ (by omega)

/-- Truncation loses less than one divisor. -/
theorem natAbs_tdiv_mul_sub_lt (a : Int) {n : Nat} (hn : 0 < n) : (a.tdiv n * n - a).natAbs < n := by
  have ha := Int.tmod_add_tdiv_mul a n
  have hlt : (a.tmod n).natAbs < n := by
    rw [Int.natAbs_tmod, Int.natAbs_natCast]
    exact Nat.mod_lt _ hn
  omega

/-- R90: the counter the sweep leaves, capped at the length. -/
theorem sweepAdvance_cnt {c : Channel} (h : c.sweepCnt.toNat ≤ c.sweepLen.toNat) :
    ∃ cnt, sweepAdvance c = { c with sweepCnt := cnt } ∧
      cnt.toNat = if c.autoSweep = true ∧ c.sweepPitch ≠ 0 then min c.sweepLen.toNat (c.sweepCnt.toNat + 1)
        else c.sweepCnt.toNat := by
  refine ⟨_, sweepAdvance_eq c, ?_⟩
  by_cases ha : c.autoSweep = true ∧ c.sweepPitch ≠ 0
  · rw [if_pos ha]
    rcases lt_or_ge c.sweepCnt.toNat c.sweepLen.toNat with hlt | hge
    · rw [if_pos ⟨(sweeping_iff c).2 ⟨ha.2, hlt⟩, ha.1⟩]
      bv_omega
    · rw [if_neg fun hh => hge.not_gt ((sweeping_iff c).1 hh.1).2]
      omega
  · rw [if_neg ha, if_neg fun hh => ha ⟨hh.2, ((sweeping_iff c).1 hh.1).1⟩]

/-- Settles O36, from the linear share. -/
theorem sweepFallsLinearlyToZero : Obligations.SweepFallsLinearlyToZero := by
  unfold Obligations.SweepFallsLinearlyToZero
  intro c h
  have hpos : c.sweepLen ≠ 0 → 0 < c.sweepLen.toNat := by bv_omega
  refine ⟨natAbs_sweepValue_le h, fun he => ?_, fun h0 hl => ?_, fun hl => ?_, sweepAdvance_cnt h⟩
  · rw [sweepValue_eq_share h, he, sub_self, mul_zero, Int.zero_tdiv]
  · have hzero : c.sweepCnt.toNat = 0 := congrArg BitVec.toNat h0
    rw [sweepValue_eq_share h, hzero, Nat.cast_zero, sub_zero]
    exact Int.mul_tdiv_cancel _ (Int.natCast_ne_zero.2 (hpos hl).ne')
  · rw [sweepValue_eq_share h]
    exact natAbs_tdiv_mul_sub_lt _ (hpos hl)

/-! ### CH_STOP -/

theorem chStopEffect_ch_owned {s : State} {c : ChanIdx} (h : (s.ch c).owner ≠ none) :
    (chStopEffect c s).ch c = (s.ch c).stop := by
  rw [chStopEffect_ch, if_pos ⟨rfl, h⟩]

theorem chStopEffect_ch_free {s : State} {c : ChanIdx} (h : (s.ch c).owner = none) :
    (chStopEffect c s).ch c = s.ch c := by
  rw [chStopEffect_ch, if_neg fun hh => hh.2 h]

theorem chStopEffect_ch_other (s : State) {c d : ChanIdx} (h : d ≠ c) : (chStopEffect c s).ch d = s.ch d := by
  rw [chStopEffect_ch, if_neg fun hh => h hh.1.symm]

theorem chStopEffect_sameAround (s : State) (c : ChanIdx) (bad : Bool) :
    SameAround s (chStopEffect c (s.rsvCheck bad)) where
  audioQ := chStopEffect_audioQ _ c
  recQ := chStopEffect_recQ _ c
  stream := chStopEffect_stream _ c
  pos := chStopEffect_pos _ c
  host := chStopEffect_host _ c
  rx := chStopEffect_rx _ c

/-- R55: the reserved bits of format C are the two fields beside the channel. -/
theorem and_formatCMask_bne_zero (w : Word) :
    ((w &&& 0x00F0FFFF#32) != 0#32) = (bits 20 4 w != 0 || bits 0 16 w != 0) := by
  have hm : 0x00F0FFFF#32 = fieldMask 20 4 ||| fieldMask 0 16 := by decide
  rw [hm, and_or_bne_zero, and_fieldMask_bne_zero, and_fieldMask_bne_zero]

/-- Settles O37, from what CH_STOP writes and its frame. -/
theorem chStopFreesTheChannel : Obligations.ChStopFreesTheChannel := by
  unfold Obligations.ChStopFreesTheChannel
  intro s w rest hw c i
  have hdecode : decode (w :: rest) = .command i rest :=
    decode_oneWord rest (by rw [hw]; decide) (by rw [hw]; decide) (by simp only [decodeOneWord, hw, i, c])
  rw [and_formatCMask_bne_zero]
  exact ⟨hdecode, _, rfl, chStopEffect_ch_owned (s := s.rsvCheck _), chStopEffect_ch_free (s := s.rsvCheck _),
    fun _ hd => chStopEffect_ch_other _ hd, chStopEffect_tracks _ c, chStopEffect_mix _ c, chStopEffect_st _ c,
    chStopEffect_sameAround s c _⟩

/-! ### The envelope state of a channel -/

@[simp] theorem initChannel_state (t : TrackIdx) (c : Channel) : (initChannel t c).state = c.state := by
  unfold initChannel
  split <;> rfl

@[simp] theorem tickChannel_state (t : TrackIdx) (c : Channel) : (tickChannel t c).state = c.state := by
  unfold tickChannel
  split <;> rfl

/-- R114: frames keep the envelope state of every channel. -/
theorem oscAdvanceN_state (P : Params) (n : Nat) (chs : Bank Channel) (c : ChanIdx) :
    (oscAdvanceN P n chs)[c.val].state = chs[c.val].state := by
  obtain ⟨q, h⟩ := oscAdvanceN_at P n chs c
  rw [h]

/-- R92: a stop keeps the envelope state. -/
@[simp] theorem chStopEffect_ch_state (s : State) (c d : ChanIdx) :
    ((chStopEffect c s).ch d).state = (s.ch d).state := by
  rw [chStopEffect_ch]
  split
  · rename_i h
    rw [← h.1, Channel.stop]
  · rfl

/-- R98: a NOTE leaves a channel's envelope state alone or starts Attack. -/
theorem noteStart_ch_state (P : Params) (n : NoteFields) (s : State) (c : ChanIdx) :
    ((noteStart P n s).ch c).state = (s.ch c).state ∨ ((noteStart P n s).ch c).state = .attack := by
  rcases noteStart_cases P s n with ⟨-, h⟩ | ⟨-, -, -, h⟩ | ⟨ty, d, -, -, h⟩
  · exact .inl (by rw [h, noteDrop_ch, State.raiseRsv_ch])
  · exact .inl (by rw [h, noteDrop_ch])
  · rw [h, noteTake_ch]
    split
    · exact .inr rfl
    · exact .inl rfl

/-- R89, R100: after its pass an owned channel is in Release, or where the envelope step left it. -/
theorem chTickOwned_state (P : Params) (x : Track) (c : Channel) : (chTickOwned P x c).state =
    if c.dur = 0 ∧ x.waitNote = false then .release else (stepEnvelope c).state := by
  have hpass : (chTickOwned P x c).state = (releaseCheck x.waitNote (stepEnvelope c)).state := by
    dsimp only [chTickOwned]
    split <;> simp only [Channel.stop, refresh, sweepAdvance_eq]
  obtain ⟨e, st, he⟩ := stepEnvelope_eq c
  rw [hpass, releaseCheck_eq, he]

/-- R86: the commands that can change a channel's envelope state. -/
def ChangesEnvelope : Instr → Prop
  | .note _ | .chTick _ => True
  | _ => False

/-- R86: every other command keeps the envelope state of every channel. -/
theorem exec_keeps_state {i : Instr} (hi : ¬ ChangesEnvelope i) {s s' : State} (h : exec i s = .next s')
    (c : ChanIdx) : (s'.ch c).state = (s.ch c).state := by
  cases i with
  | note | chTick => exact absurd trivial hi
  | trkLfotype t rsv k =>
    dsimp only [exec, execTrkLfotype] at h
    split at h <;> cases h <;> rfl
  | setMaster rsv f =>
    dsimp only [exec, execSetMaster] at h
    split at h <;> cases h <;> rfl
  | trkInit t rsv =>
    cases h
    rw [trackInit_ch, initChannel_state, State.rsvCheck_ch]
  | trkTick t rsv =>
    cases h
    rw [trackTick_ch, tickChannel_state, State.rsvCheck_ch]
  | chStop rsvHi d rsvLo =>
    cases h
    rw [chStopEffect_ch_state, State.rsvCheck_ch]
  | process rsv toRec toOut =>
    cases h
    rw [State.ch_eq, processBuffer_channels]
    exact oscAdvanceN_state ..
  | emulate rsv =>
    cases h
    exact oscAdvanceN_state ..
  | nop | trkVolume | trkExpression | trkPriority | trkPan | trkTranspose | trkPitchbend | trkBendrange | trkLfodepth
  | trkLfospeed | trkLforange | trkLfodelay | trkAttack | trkDecay | trkSustain | trkRelease | trkWaitnote | trkMute
  | fadeIn | fadeOut | fadeReset | clrStatus =>
    cases h
    rfl

/-- R86, R100: the transitions of an owned channel's pass. -/
theorem chTickOwned_state_cases (P : Params) (x : Track) (c : Channel) :
    let a := c.state
    let b := (chTickOwned P x c).state
    b = a ∨ (a = .attack ∧ (b = .decay ∨ b = .release)) ∨ (a = .decay ∧ (b = .sustain ∨ b = .release)) ∨
      (a = .sustain ∧ b = .release) := by
  dsimp only
  rw [chTickOwned_state]
  split
  · cases c.state <;> decide
  · rcases stepEnvelope_state_cases c with h | ⟨hs, h⟩ | ⟨hs, h⟩
    · exact .inl h
    · exact .inr (.inl ⟨hs, .inl h⟩)
    · exact .inr (.inr (.inl ⟨hs, .inl h⟩))

/-- Settles O53: a NOTE starts Attack, a pass of CH_TICK moves along the table, and no other command writes the
state. -/
theorem envelopeTransitionsAreTheTable : Obligations.EnvelopeTransitionsAreTheTable := by
  unfold Obligations.EnvelopeTransitionsAreTheTable
  intro i s s' c h
  by_cases hi : ChangesEnvelope i
  · cases i with
    | note n =>
      obtain rfl := Host.Outcome.next.inj h
      exact (noteStart_ch_state _ n _ c).imp_right fun hb => .inl ⟨⟨n, rfl⟩, hb⟩
    | chTick r =>
      obtain rfl := Host.Outcome.next.inj h
      rw [chTickAll_ch, State.rsvCheck_ch]
      cases ho : (s.ch c).owner with
      | none => exact .inl (by rw [chTickOne, ho])
      | some t =>
        rw [chTickOne, ho]
        exact (chTickOwned_state_cases _ _ _).imp_right fun hb => .inr ⟨⟨r, rfl⟩, Option.some_ne_none t, hb⟩
    | _ => exact hi.elim
  · exact .inl (exec_keeps_state hi h c)

end Sys2Proof.Machine
end

section
/-! PROOFS. The channels under the arbiter, NOTE and CH_TICK (R95, R96, R98, R100, R101): which channel the
arbiter takes, what a NOTE leaves in each of its three cases, what one pass of CH_TICK leaves in an owned
channel, and which command a channel enters Release in. -/

namespace Sys2Proof.Machine

/-! ### The arbiter's channel -/

/-- R96: of two channels each before the other, the index decides. -/
theorem Before.antisymm {s : State} {b c : ChanIdx} (h : Before s b c) (h' : Before s c b) : b = c := by
  simp only [Before, Fin.le_def, Fin.ext_iff] at *
  omega

/-- R96: the arbiter takes the first of the type's channels, if the requester's priority reaches its score. -/
theorem arbitrate_eq_some_iff {P : Params} {s : State} {ty : InstrType} {t : TrackIdx} {b : ChanIdx} :
    arbitrate P s ty t = some b ↔ maskHas P ty b = true ∧ score s b ≤ (s.trk t).priority.toNat ∧
      ∀ c, maskHas P ty c = true → Before s b c := by
  unfold arbitrate
  cases hs : scan P s ty with
  | none =>
    have hmask := scan_none P s ty hs b
    simp [hmask]
  | some d =>
    obtain ⟨hd, hfirst⟩ := scan_some P s ty hs
    dsimp only
    constructor
    · intro h
      split at h
      · cases h
      · cases h
        exact ⟨hd, not_lt.1 ‹_›, hfirst⟩
    · rintro ⟨hb, hle, hleast⟩
      obtain rfl : b = d := (hleast d hd).antisymm (hfirst b hb)
      rw [if_neg (not_lt.2 hle)]

/-- Settles O40: the statement's rank is the score, and its order the arbiter's. -/
theorem arbiterPicksTheLeast : Obligations.ArbiterPicksTheLeast := by
  unfold Obligations.ArbiterPicksTheLeast
  intro s ty t b
  exact arbitrate_eq_some_iff

/-! ### NOTE, case by case -/

theorem instrTypeOf_instrTypeCode (ty : InstrType) : instrTypeOf (instrTypeCode ty) = some ty := by
  cases ty <;> rfl

section Note

variable {P : Params} {n : NoteFields} {s : State} {ty : InstrType}

theorem noteStart_of_invalid_type (h : n.typ = 3#2) : noteStart P n s = noteDrop n.t s.raiseRsv := by
  rw [noteStart, h]
  rfl

theorem noteStart_of_no_channel (hty : instrTypeCode ty = n.typ) (ha : arbitrate P s ty n.t = none) :
    noteStart P n s = noteDrop n.t s := by
  simp only [noteStart, ← hty, instrTypeOf_instrTypeCode, ha]

theorem noteStart_of_channel {c : ChanIdx} (hty : instrTypeCode ty = n.typ) (ha : arbitrate P s ty n.t = some c) :
    noteStart P n s = noteTake P n ty c s := by
  simp only [noteStart, ← hty, instrTypeOf_instrTypeCode, ha]

end Note

/-- R29: the arbiter reads no status register, so the reserved-bit check before it changes nothing. -/
theorem arbitrate_rsvCheck (P : Params) (s : State) (bad : Bool) (ty : InstrType) (t : TrackIdx) :
    arbitrate P (s.rsvCheck bad) ty t = arbitrate P s ty t :=
  DifferInStatus.arbitrate_eq (a := s) ⟨_, rfl⟩ ty t

theorem noteTake_ch_same (P : Params) (s : State) (n : NoteFields) (ty : InstrType) (c : ChanIdx) :
    (noteTake P n ty c s).ch c = startedChannel P n ty (s.trk n.t) := by
  rw [noteTake_ch, if_pos rfl]

theorem noteTake_ch_other (P : Params) (s : State) (n : NoteFields) (ty : InstrType) {c d : ChanIdx} (h : d ≠ c) :
    (noteTake P n ty c s).ch d = s.ch d := by
  rw [noteTake_ch, if_neg h.symm]

/-- R98: the record of a started NOTE, with no channel stolen and with one. -/
theorem lastNoteTaken_eq (t : TrackIdx) (c : ChanIdx) (prev : Option TrackIdx) : lastNoteTaken t c prev =
    match prev with
    | none => BitVec.ofNat 32 (t.val * 4096 + c.val * 16 + 3)
    | some u => BitVec.ofNat 32 (t.val * 4096 + u.val * 256 + c.val * 16 + 7) := by
  cases prev <;> simp [lastNoteTaken, Nat.add_assoc]

theorem noteStart_sameAround (P : Params) (n : NoteFields) (s : State) (bad : Bool) :
    SameAround s (noteStart P n (s.rsvCheck bad)) where
  audioQ := noteStart_audioQ P _ n
  recQ := noteStart_recQ P _ n
  stream := noteStart_stream P _ n
  pos := noteStart_pos P _ n
  host := noteStart_host P _ n
  rx := noteStart_rx P _ n

/-- R49, R50: six words under the opcode of NOTE. -/
theorem decode_note {w0 : Word} (h : opcodeOf w0 = 0x20#8) (w1 w2 w3 w4 w5 : Word) (rest : List Word) :
    decode (w0 :: w1 :: w2 :: w3 :: w4 :: w5 :: rest) = .command (.note (decodeNote w0 w1 w2 w3 w4 w5)) rest := by
  rw [decode, if_pos h, decodeNoteCmd]

/-- R55: the masks of format NOTE on the words a NOTE is decoded from. -/
theorem and_noteMasks_bne_zero {w0 : Word} (h : opcodeOf w0 = 0x20#8) (w1 w2 w3 w4 w5 : Word) :
    ((w0 &&& 0x00018080#32) != 0#32 || (w2 &&& 0x00008080#32) != 0#32 || (w3 &&& 0x80808080#32) != 0#32) =
      !(decodeNote w0 w1 w2 w3 w4 w5).reservedZero := by
  rw [← rsvMaskHit_note]
  simp only [rsvMaskHit, rsvMasks, encode, noteWord0_decodeNote h, noteWord2_decodeNote, noteWord3_decodeNote,
    List.any_cons, List.any_nil, List.getD_cons_zero, List.getD_cons_succ, Bool.or_false, Bool.or_assoc]

/-- Settles O39: the three cases of NOTE, with the arbiter asked before or after the reserved-bit check. -/
theorem noteStartsOrDrops : Obligations.NoteStartsOrDrops := by
  unfold Obligations.NoteStartsOrDrops
  intro s w0 w1 w2 w3 w4 w5 rest hw P n t x bad pick
  have hbad : bad = !n.reservedZero := and_noteMasks_bne_zero hw w1 w2 w3 w4 w5
  rw [hbad]
  refine ⟨decode_note hw w1 w2 w3 w4 w5 rest, _, rfl, noteStart_tracks P _ n, noteStart_mix P _ n,
    noteStart_sameAround P n s _, fun h3 => ?_, fun ty hty ha => ?_, fun ty c hty ha => ?_⟩
  · rw [noteStart_of_invalid_type (n := n) h3]
    exact ⟨noteDrop_channels _ _, noteDrop_st _ _⟩
  · rw [noteStart_of_no_channel (n := n) hty ((arbitrate_rsvCheck P s _ ty t).trans ha)]
    exact ⟨noteDrop_channels _ _, noteDrop_st _ _⟩
  · rw [noteStart_of_channel (n := n) hty ((arbitrate_rsvCheck P s _ ty t).trans ha)]
    refine ⟨fun d hd => noteTake_ch_other P _ n ty hd, ⟨transposedKey n.key x.transpose, centred n.startPan,
      transposedKey_toNat _ _, toInt_centred _, noteTake_ch_same P _ n ty c⟩, ?_⟩
    rw [noteTake_st, State.rsvCheck_ch, lastNoteTaken_eq]
    rfl

/-! ### CH_TICK -/

/-- R90: the value of the sweep, the test of its running written out. -/
theorem sweepValue_eq (c : Channel) : sweepValue c =
    if c.sweepPitch ≠ 0 ∧ c.sweepCnt.toNat < c.sweepLen.toNat then
      (c.sweepPitch.toInt * ((c.sweepLen.toNat : Int) - c.sweepCnt.toNat)).tdiv c.sweepLen.toNat else 0 := by
  simp only [sweepValue, sweeping_iff, quot]

section Pass

variable {P : Params} {x : Track} {c e : Channel}

/-- R100 step 5: a channel in Release at or below the floor is stopped; `e` is the channel after steps 1 and 2. -/
theorem chTickOwned_of_silent (he : releaseCheck x.waitNote (stepEnvelope c) = e)
    (h : e.state = .release ∧ combinedVolume P x e ≤ FLOOR) : chTickOwned P x c = (sweepAdvance e).stop := by
  rw [chTickOwned, he]
  exact if_pos (by rwa [sweepAdvance_eq])

/-- R100 step 6: any other owned channel is refreshed. -/
theorem chTickOwned_of_heard (he : releaseCheck x.waitNote (stepEnvelope c) = e)
    (h : ¬ (e.state = .release ∧ combinedVolume P x e ≤ FLOOR)) :
    chTickOwned P x c = refresh P x (combinedVolume P x e) (channelPitch P x e) (sweepAdvance e) := by
  rw [chTickOwned, he]
  exact if_neg (by rwa [sweepAdvance_eq])

end Pass

theorem chTickAll_ch_free (P : Params) {s : State} {c : ChanIdx} (h : (s.ch c).owner = none) :
    (chTickAll P s).ch c = s.ch c := by
  rw [chTickAll_ch, chTickOne, h]

theorem chTickAll_ch_owned (P : Params) {s : State} {c : ChanIdx} {t : TrackIdx} (h : (s.ch c).owner = some t) :
    (chTickAll P s).ch c = chTickOwned P (s.trk t) (s.ch c) := by
  rw [chTickAll_ch, chTickOne, h]
  rfl

theorem chTickAll_sameAround (P : Params) (s : State) (bad : Bool) :
    SameAround s (chTickAll P (s.rsvCheck bad)) where
  audioQ := chTickAll_audioQ P _
  recQ := chTickAll_recQ P _
  stream := chTickAll_stream P _
  pos := chTickAll_pos P _
  host := chTickAll_host P _
  rx := chTickAll_rx P _

/-- Settles O38: an owned channel's pass, stopped or refreshed. -/
theorem chTickRecomputesEachChannel : Obligations.ChTickRecomputesEachChannel := by
  unfold Obligations.ChTickRecomputesEachChannel
  intro s w rest hw P
  have hdecode : decode (w :: rest) = .command (.chTick (bits 0 24 w)) rest :=
    decode_oneWord rest (by rw [hw]; decide) (by rw [hw]; decide) (by simp only [decodeOneWord, hw])
  have hmask : ((w &&& 0x00FFFFFF#32) != 0#32) = (bits 0 24 w != 0) := and_fieldMask_bne_zero w 0 24
  rw [hmask]
  refine ⟨hdecode, _, rfl, fun c hc => chTickAll_ch_free P (s := s.rsvCheck _) hc, ?_,
    chTickAll_tracks P _, chTickAll_mix P _, chTickAll_st P _, chTickAll_sameAround P s _⟩
  intro c t ht x e st vol running sweep pitch cnt
  rw [chTickAll_ch_owned P (s := s.rsvCheck _) ht, State.rsvCheck_ch, State.rsvCheck_trk]
  have hcheck : releaseCheck x.waitNote e = { e with state := st } := releaseCheck_eq _ _
  have hadvance : sweepAdvance { e with state := st } = { e with state := st, sweepCnt := cnt } := by
    rw [sweepAdvance_eq]
    simp only [sweeping_iff, cnt, running]
  have hpitch : channelPitch P x { e with state := st } = pitch := by
    rw [channelPitch, sweepValue_eq]
    rfl
  split
  · rename_i hsilent
    rw [chTickOwned_of_silent hcheck hsilent, hadvance, Channel.stop]
  · rename_i hheard
    refine ⟨_, toInt_clampedPan _, ?_⟩
    rw [chTickOwned_of_heard hcheck hheard, hadvance, hpitch]
    rfl

/-! ### Entering Release -/

/-- R89, R101: a pass takes a channel into Release only when its duration is over and its track does not wait. -/
theorem chTickOwned_enters_release {P : Params} {x : Track} {c : Channel} (hs : c.state ≠ .release)
    (h : (chTickOwned P x c).state = .release) : c.dur = 0 ∧ x.waitNote = false := by
  by_contra hover
  rw [chTickOwned_state, if_neg hover] at h
  rcases stepEnvelope_state_cases c with hsame | ⟨-, hdecay⟩ | ⟨-, hsustain⟩
  · exact hs (hsame ▸ h)
  · cases hdecay.symm.trans h
  · cases hsustain.symm.trans h

/-- Settles O54: no command but NOTE and CH_TICK writes the envelope state, and NOTE starts Attack. -/
theorem onlyChTickEntersRelease : Obligations.OnlyChTickEntersRelease := by
  unfold Obligations.OnlyChTickEntersRelease
  intro i s s' c h hbefore hafter
  by_cases hi : ChangesEnvelope i
  · cases i with
    | note n =>
      obtain rfl := Host.Outcome.next.inj h
      rcases noteStart_ch_state Config.params n (s.rsvCheck (!n.reservedZero)) c with hsame | hattack
      · exact absurd (hsame.symm.trans hafter) hbefore
      · cases hattack.symm.trans hafter
    | chTick r =>
      obtain rfl := Host.Outcome.next.inj h
      cases ho : (s.ch c).owner with
      | none =>
        rw [chTickAll_ch_free _ (s := s.rsvCheck _) ho] at hafter
        exact absurd hafter hbefore
      | some t =>
        rw [chTickAll_ch_owned _ (s := s.rsvCheck _) ho] at hafter
        exact ⟨r, rfl, t, rfl, chTickOwned_enters_release hbefore hafter⟩
    | _ => exact hi.elim
  · exact absurd ((exec_keeps_state hi h c).symm.trans hafter) hbefore

end Sys2Proof.Machine
end

section
/-! PROOFS. The mixer and the rendering (R102 to R114): the commands that write mixer registers, the fade by case,
the bounds on what channels add to a frame, the buffer a PROCESS hands over, and the silence a fade-out ends in. -/

namespace Sys2Proof.Machine

/-! ### Commands that write the mixer registers -/

theorem mixWritten_rsvCheck_modMix (s : State) (f : Mixer → Mixer) (bad : Bool) :
    MixWritten s ((s.rsvCheck bad).modMix f) (f s.mix) bad where
  written := rfl
  channels := rfl
  tracks := rfl
  status := rfl
  around := ⟨rfl, rfl, rfl, rfl, rfl, rfl⟩

/-- R54 (c): a refused operand leaves the register as it is and raises RSV, whatever the reserved bits are. -/
theorem mixWritten_raiseRsv (s : State) (bad : Bool) : MixWritten s (s.rsvCheck bad).raiseRsv s.mix true where
  written := rfl
  channels := rfl
  tracks := rfl
  status := by simp [RsvOnly]
  around := ⟨rfl, rfl, rfl, rfl, rfl, rfl⟩

/-- R55: a command whose meaning is the check of one reserved field and an update of the mixer registers. -/
theorem writesMix_of_exec {op : BitVec 8} {mask : Word} {mk : Word → Instr} {upd : Word → Mixer → Mixer}
    (lo n : Nat) (h20 : op ≠ 0x20#8) (h43 : op ≠ 0x43#8) (hmask : fieldMask lo n = mask)
    (hexec : ∀ w s, exec (mk w) s = .next ((s.rsvCheck (bits lo n w != 0)).modMix (upd w)))
    (hdecode : ∀ w, opcodeOf w = op → decodeOneWord w = some (mk w)) : WritesMix op mask mk upd := by
  intro s w rest hw
  refine ⟨decode_oneWord rest (hw ▸ h20) (hw ▸ h43) (hdecode w hw), _, hexec w s, ?_⟩
  rw [← hmask, and_fieldMask_bne_zero]
  exact mixWritten_rsvCheck_modMix s _ _

/-- R55: the reserved bits of a header without operands are one field. -/
theorem and_formatNMask_bne_zero (w : Word) : ((w &&& 0x00FFFFFF#32) != 0#32) = (bits 0 24 w != 0) :=
  and_fieldMask_bne_zero w 0 24

/-- Settles O42, by the rule for mixer writes. -/
theorem muteWrite : Obligations.MuteWrite := by
  unfold Obligations.MuteWrite
  refine writesMix_of_exec 1 19 (by decide) (by decide) rfl (fun _ _ => rfl) fun w hw => ?_
  simp only [decodeOneWord, hw]

/-- Settles O44, by the rule for mixer writes; the step constants are computed. -/
theorem fadeCommandsArmTheFade : Obligations.FadeCommandsArmTheFade := by
  unfold Obligations.FadeCommandsArmTheFade
  refine ⟨writesMix_of_exec 0 24 (by decide) (by decide) rfl (fun _ _ => rfl) ?_,
    writesMix_of_exec 0 24 (by decide) (by decide) rfl (fun _ _ => rfl) ?_,
    writesMix_of_exec 0 24 (by decide) (by decide) rfl (fun _ _ => rfl) ?_, by decide, by decide⟩
  all_goals
    intro w hw
    simp only [decodeOneWord, hw]

/-! ### SET_MASTER -/

theorem masterRefused_iff (v : Binary32) :
    masterRefused v = true ↔ v.getLsbD 31 = true ∨ bits 23 8 v = 0xFF#8 ∨ 0x47800000 < v.toNat := by
  simp only [masterRefused, Bool.or_eq_true, beq_iff_eq, decide_eq_true_eq, or_assoc]

theorem exec_setMaster_of_refused {v : Binary32} (h : masterRefused v = true) (r : BitVec 24) (s : State) :
    exec (.setMaster r v) s = .next (s.rsvCheck (r != 0)).raiseRsv := if_pos h

theorem exec_setMaster_of_accepted {v : Binary32} (h : ¬ masterRefused v = true) (r : BitVec 24) (s : State) :
    exec (.setMaster r v) s = .next ((s.rsvCheck (r != 0)).modMix fun m => { m with master := v }) := if_neg h

/-- R49, R50: two words under the opcode of SET_MASTER. -/
theorem decode_setMaster {w : Word} (h : opcodeOf w = 0x43#8) (v : Word) (rest : List Word) :
    decode (w :: v :: rest) = .command (.setMaster (bits 0 24 w) v) rest := by
  rw [decode, if_neg (by rw [h]; decide), if_pos h, decodeMasterCmd]

/-- Settles O43: the value is refused or accepted, and each has its meaning. -/
theorem setMasterAcceptsOrRefuses : Obligations.SetMasterAcceptsOrRefuses := by
  unfold Obligations.SetMasterAcceptsOrRefuses
  intro s w v rest hw i refused
  rw [and_formatNMask_bne_zero]
  refine ⟨decode_setMaster hw v rest, ?_⟩
  by_cases h : refused
  · exact ⟨_, exec_setMaster_of_refused ((masterRefused_iff v).2 h) _ s, fun _ => mixWritten_raiseRsv s _,
      fun hn => absurd h hn⟩
  · exact ⟨_, exec_setMaster_of_accepted (mt (masterRefused_iff v).1 h) _ s, fun hr => absurd hr h,
      fun _ => mixWritten_rsvCheck_modMix s _ _⟩

/-! ### FadeSetup, case by case -/

section Fade

variable {P : Params} {m : Mixer}

theorem fadeAdvance_fadeLeft (m : Mixer) : (fadeAdvance m).fadeLeft = m.fadeLeft - 1 := rfl

theorem fadeRamp_silent (h : m.silent = true) : fadeRamp P m = ((0, 0), m) := if_pos h

theorem fadeRamp_idle (h : m.silent = false) (hl : m.fadeLeft = 0) :
    fadeRamp P m = ((m.master, f32Mul (f32Sub m.master m.master) (recip P)), m) := by
  rw [fadeRamp, if_neg (Bool.eq_false_iff.1 h), if_neg (Nat.not_lt.2 hl.le)]

theorem fadeRamp_completes (h : m.silent = false) (hp : P.fadeSilenceOnCompletingCall = true) (hl : m.fadeLeft = 1)
    (hd : m.fadeDir = .fadingOut) : fadeRamp P m = ((0, 0), { fadeAdvance m with silent := true }) := by
  have hleft : (fadeAdvance m).fadeLeft = 0 := by rw [fadeAdvance_fadeLeft, hl]
  rw [fadeRamp, if_neg (Bool.eq_false_iff.1 h), if_pos (by omega)]
  exact if_pos ⟨hp, hleft, hd⟩

theorem fadeRamp_moves (h : m.silent = false) (hl : 0 < m.fadeLeft)
    (hn : ¬ (P.fadeSilenceOnCompletingCall = true ∧ m.fadeLeft = 1 ∧ m.fadeDir = .fadingOut)) :
    fadeRamp P m = ((fadeLevel P m, f32Mul (f32Sub (fadeLevel P (fadeAdvance m)) (fadeLevel P m)) (recip P)),
      fadeAdvance m) := by
  have hleft : (fadeAdvance m).fadeLeft = 0 → m.fadeLeft = 1 := by
    rw [fadeAdvance_fadeLeft]
    omega
  rw [fadeRamp, if_neg (Bool.eq_false_iff.1 h), if_pos hl]
  exact if_neg fun hc => hn ⟨hc.1, hleft hc.2.1, hc.2.2⟩

/-- R108: the first test finds nothing to do unless it is the late timing's call after a whole fade-out. -/
theorem lateSilence_other (h : ¬ (P.fadeSilenceOnCompletingCall = false ∧ m.silent = false ∧
    m.fadeDir = .fadingOut ∧ m.fadeLeft = 0)) : lateSilence P m = m := if_neg h

theorem lateSilence_ended (h : P.fadeSilenceOnCompletingCall = false ∧ m.silent = false ∧
    m.fadeDir = .fadingOut ∧ m.fadeLeft = 0) : lateSilence P m = { m with silent := true } := if_pos h

end Fade

/-- Settles O45, from the cases of its two tests. -/
theorem fadeSetupByCase : Obligations.FadeSetupByCase := by
  unfold Obligations.FadeSetupByCase
  intro P m level slope pos early
  simp only [fadeSetup]
  refine ⟨fun hs => ?_, fun hs hl => ⟨fun hlate => ?_, fun hn => ?_⟩, fun hs hl => ⟨fun hc => ?_, fun hn => ?_⟩⟩
  · rw [lateSilence_other (by simp [hs]), fadeRamp_silent hs]
    rfl
  · rw [lateSilence_ended ⟨hlate.1, hs, hlate.2, hl⟩, fadeRamp_silent rfl]
    rfl
  · rw [lateSilence_other fun h => hn ⟨h.1, h.2.2.1⟩, fadeRamp_idle hs hl]
    rfl
  · rw [lateSilence_other fun h => hl.ne' h.2.2.2, fadeRamp_completes hs hc.1 hc.2.1 hc.2.2, fadeAdvance, hc.2.1]
    rfl
  · rw [lateSilence_other fun h => hl.ne' h.2.2.2, fadeRamp_moves hs hl hn]
    rfl

/-! ### What a channel adds to a frame -/

/-- R16: a product with a factor of at most `d`, divided by `d`, is no larger than the other factor. -/
theorem natAbs_mul_tdiv_le {a b d : Int} {B : Nat} (ha : a.natAbs ≤ B) (hd : 0 < d) (hb : b.natAbs ≤ d.natAbs) :
    ((a * b).tdiv d).natAbs ≤ B := by
  rw [Int.natAbs_tdiv, Int.natAbs_mul]
  calc a.natAbs * b.natAbs / d.natAbs ≤ a.natAbs * d.natAbs / d.natAbs :=
        Nat.div_le_div_right (Nat.mul_le_mul_left _ hb)
    _ = a.natAbs := Nat.mul_div_cancel _ (Int.natAbs_pos.2 hd.ne')
    _ ≤ B := ha

theorem natAbs_sample_le (smp : BitVec 16) : smp.toInt.natAbs ≤ 32768 := by
  have hlo := smp.le_toInt
  have hhi := smp.toInt_lt
  omega

theorem pan_range (pan : BitVec 7) : -64 ≤ pan.toInt ∧ pan.toInt < 64 := ⟨pan.le_toInt, pan.toInt_lt⟩

/-- R110: the sample at the channel's volume is no larger than a sample. -/
theorem natAbs_amplitude_le (c : Channel) (smp : BitVec 16) :
    ((smp.toInt * c.volume.toNat).tdiv 127).natAbs ≤ 32768 := by
  have hvol := c.volume.isLt
  exact natAbs_mul_tdiv_le (natAbs_sample_le smp) (by decide) (by omega)

/-- R110: both contributions are at most 32768 in magnitude. -/
theorem natAbs_contrib_le (c : Channel) (smp : BitVec 16) :
    (contrib c smp.toInt).1.natAbs ≤ 32768 ∧ (contrib c smp.toInt).2.natAbs ≤ 32768 := by
  obtain ⟨hlo, hhi⟩ := pan_range c.pan
  exact ⟨natAbs_mul_tdiv_le (natAbs_amplitude_le c smp) (by decide) (by omega),
    natAbs_mul_tdiv_le (natAbs_amplitude_le c smp) (by decide) (by omega)⟩

section FrameContrib

variable {P : Params} {mute : Bank Bool} {c : Channel}

theorem frameContrib_free (h : c.owner = none) : frameContrib P mute c = (0, 0) := by
  rw [frameContrib, h]

theorem frameContrib_muted {t : TrackIdx} (h : c.owner = some t) (hm : mute[t.val] = true) :
    frameContrib P mute c = (0, 0) := by
  rw [frameContrib, h]
  exact if_pos hm

theorem frameContrib_heard {t : TrackIdx} (h : c.owner = some t) (hm : mute[t.val] = false) :
    frameContrib P mute c = contrib c (oscRun P c).1.toInt := by
  rw [frameContrib, h]
  exact if_neg (Bool.eq_false_iff.1 hm)

/-- R110, R111: what a channel adds to a frame is at most 32768 in magnitude on either side. -/
theorem natAbs_frameContrib_le (P : Params) (mute : Bank Bool) (c : Channel) :
    (frameContrib P mute c).1.natAbs ≤ 32768 ∧ (frameContrib P mute c).2.natAbs ≤ 32768 := by
  cases ho : c.owner with
  | none =>
    rw [frameContrib_free ho]
    decide
  | some t =>
    cases hm : mute[t.val] with
    | true =>
      rw [frameContrib_muted ho hm]
      decide
    | false =>
      rw [frameContrib_heard ho hm]
      exact natAbs_contrib_le c _

end FrameContrib

theorem natAbs_sum_allIdx_le {f : Fin 16 → Int} {B : Nat} (h : ∀ i, (f i).natAbs ≤ B) :
    (allIdx.map f).sum.natAbs ≤ 16 * B := by
  rw [allIdx, ← Fin.sum_univ_def]
  calc (∑ i, f i).natAbs ≤ ∑ i, (f i).natAbs := Int.natAbs_sum_le _ _
    _ ≤ ∑ _i : Fin 16, B := Finset.sum_le_sum fun i _ => h i
    _ = 16 * B := by rw [Finset.sum_const, Finset.card_univ, Fintype.card_fin, smul_eq_mul]

/-- R111: a mixed sum is at most 16 channels of 32768. -/
theorem natAbs_frameSums_le (P : Params) (mute : Bank Bool) (chs : Bank Channel) :
    (frameSums P mute chs).1.natAbs ≤ 16 * 32768 ∧ (frameSums P mute chs).2.natAbs ≤ 16 * 32768 :=
  ⟨natAbs_sum_allIdx_le fun i => (natAbs_frameContrib_le P mute chs[i.val]).1,
    natAbs_sum_allIdx_le fun i => (natAbs_frameContrib_le P mute chs[i.val]).2⟩

/-- R110: hard left, the whole amplitude goes to the left. -/
theorem contrib_hardLeft {c : Channel} (h : c.pan.toInt = -64) (smp : Int) :
    contrib c smp = ((smp * c.volume.toNat).tdiv 127, 0) := by
  have hleft : ((smp * c.volume.toNat).tdiv 127 * 128).tdiv 128 = (smp * c.volume.toNat).tdiv 127 :=
    Int.mul_tdiv_cancel _ (by decide)
  simp only [contrib, quot, ampMax, h, Int.sub_neg, Int.reduceAdd, Int.mul_zero, Int.zero_tdiv, hleft]

/-- R110: in the middle, each side has half the amplitude. -/
theorem contrib_centre {c : Channel} (h : c.pan.toInt = 0) (smp : Int) :
    contrib c smp =
      (((smp * c.volume.toNat).tdiv 127).tdiv 2, ((smp * c.volume.toNat).tdiv 127).tdiv 2) := by
  have hhalf (a : Int) : (a * 64).tdiv 128 = a.tdiv 2 := Int.mul_tdiv_mul_of_pos_left a 2 (by decide)
  simp only [contrib, quot, ampMax, h, Int.sub_zero, Int.add_zero, hhalf]

theorem contrib_noVolume {c : Channel} (h : c.volume = 0) (smp : Int) : contrib c smp = (0, 0) := by
  simp [contrib, quot, h]

/-- Settles O50, from the bound on each contribution. -/
theorem contributionsAreBounded : Obligations.ContributionsAreBounded := by
  unfold Obligations.ContributionsAreBounded
  refine ⟨fun c smp => ?_, fun mute c => ?_, natAbs_frameSums_le _⟩
  · obtain ⟨hleft, hright⟩ := natAbs_contrib_le c smp
    exact ⟨rfl, hleft, hright, fun h => contrib_hardLeft h _, fun h => contrib_centre h _,
      fun h => contrib_noVolume h _⟩
  · exact ⟨frameContrib_free, fun t => frameContrib_muted, fun t => frameContrib_heard⟩

/-! ### The buffer of PROCESS -/

/-- The four bytes of frame `k` of a buffer that starts at `level` (R113). -/
def frameBytesAt (P : Params) (mute : Bank Bool) (step level : Binary32) (chs : Bank Channel) (k : Nat) : List Byte :=
  let sums := frameSums P mute (oscAdvanceN P k chs)
  let levelAt := (fun l => f32Add l step)^[k] level
  frameBytes (out16 sums.1 levelAt) (out16 sums.2 levelAt)

/-- R113: the frame loop writes its frames one after the other. -/
theorem renderFrames_bytes (P : Params) (mute : Bank Bool) (step : Binary32) (n : Nat) (level : Binary32)
    (chs : Bank Channel) :
    (renderFrames P mute step n level chs).1 = (List.range n).flatMap (frameBytesAt P mute step level chs) := by
  induction n generalizing level chs with
  | zero => rfl
  | succ n ih =>
    rw [List.range_succ_eq_map, List.flatMap_cons, List.flatMap_map, renderFrames, ih]
    rfl

/-- R113: the buffer of a PROCESS. -/
theorem renderBuffer_bytes (P : Params) (s : State) : (renderBuffer P s).1 =
    (List.range P.spb).flatMap
      (frameBytesAt P s.mix.mute (fadeSetup P s.mix).1.2 (fadeSetup P s.mix).1.1 s.channels) :=
  renderFrames_bytes ..

/-- Settles O46, from the bytes the frame loop writes and the frame of PROCESS. -/
theorem processRendersOneBuffer : Obligations.ProcessRendersOneBuffer := by
  unfold Obligations.ProcessRendersOneBuffer
  intro s w rest hw P i ramp levelAt part frameAt buf
  have hdecode : decode (w :: rest) = .command i rest :=
    decode_oneWord rest (by rw [hw]; decide) (by rw [hw]; decide) (by simp only [decodeOneWord, hw, i])
  have hmask : ((w &&& 0x00FFFFFC#32) != 0#32) = (bits 2 22 w != 0) := and_fieldMask_bne_zero w 2 22
  have hbuf : (renderBuffer P s).1 = buf := renderBuffer_bytes P s
  rw [hmask, ← hbuf]
  exact ⟨hdecode, _, rfl, renderBuffer_length P s, processBuffer_audioQ P _ _ _, processBuffer_recQ P _ _ _,
    processBuffer_channels P _ _ _, processBuffer_mix P _ _ _, processBuffer_tracks P _ _ _, processBuffer_st P _ _ _,
    processBuffer_stream P _ _ _, processBuffer_pos P _ _ _, processBuffer_host P _ _ _, processBuffer_rx P _ _ _⟩

/-! ### EMULATE -/

theorem oscAdvance_of_owned (P : Params) {x : Channel} (h : x.owner ≠ none) : oscAdvance P x =
    { x with oscState := (P.osc x.typ x.oscCfg x.timer x.oscState).2 } := if_neg h

/-- R114: the oscillator of an owned channel after `n` frames. -/
theorem oscAdvanceN_owned (P : Params) (n : Nat) (chs : Bank Channel) (c : ChanIdx)
    (h : chs[c.val].owner ≠ none) : (oscAdvanceN P n chs)[c.val] =
      { chs[c.val] with oscState :=
          (fun q => (P.osc chs[c.val].typ chs[c.val].oscCfg chs[c.val].timer q).2)^[n] chs[c.val].oscState } := by
  induction n generalizing chs with
  | zero => rfl
  | succ n ih =>
    have hstep := (oscAdvanceAll_at P chs c).trans (oscAdvance_of_owned P h)
    rw [oscAdvanceN, ih _ (by rw [hstep]; exact h), hstep]
    rfl

theorem emulateBuffer_sameAround (P : Params) (s : State) (bad : Bool) :
    SameAround s (emulateBuffer P (s.rsvCheck bad)) where
  audioQ := emulateBuffer_audioQ P _
  recQ := emulateBuffer_recQ P _
  stream := emulateBuffer_stream P _
  pos := emulateBuffer_pos P _
  host := emulateBuffer_host P _
  rx := emulateBuffer_rx P _

/-- Settles O47, from the oscillators after SPB frames. -/
theorem emulateAdvancesOscillatorsOnly : Obligations.EmulateAdvancesOscillatorsOnly := by
  unfold Obligations.EmulateAdvancesOscillatorsOnly
  intro s w rest hw P
  have hdecode : decode (w :: rest) = .command (.emulate (bits 0 24 w)) rest :=
    decode_oneWord rest (by rw [hw]; decide) (by rw [hw]; decide) (by simp only [decodeOneWord, hw])
  rw [and_formatNMask_bne_zero]
  exact ⟨hdecode, _, rfl, oscAdvanceN_free P P.spb s.channels, oscAdvanceN_owned P P.spb s.channels,
    fun _ toRec toOut => ⟨_, rfl, (processBuffer_channels P _ toRec toOut).symm⟩,
    emulateBuffer_tracks P _, emulateBuffer_mix P _, emulateBuffer_st P _, emulateBuffer_sameAround P s _⟩

/-! ### Silent buffers -/

/-- The buffer of zero samples (R109). -/
def zeroBuffer : List Byte := List.replicate (4 * Config.params.spb) 0#8

theorem out16_of_zero {n : Int} (hn : n.natAbs < 2 ^ 24) : out16 n 0#32 = 0#16 := by
  have hzero : f32Units 0#32 = 0 := by decide
  have hp := f32Mul_ofInt_nearest (level := 0#32) hn (by decide)
  rw [hzero, Int.mul_zero] at hp
  obtain ⟨hpf, hpu⟩ := hp.units_eq (y := 0#32) (by decide) hzero (by decide)
  apply BitVec.eq_of_toInt_eq
  rw [out16_of_finite hpf, hpu]
  decide

/-- R109 (b): at level 0 without a step every sample is 0, whatever the channels hold. -/
theorem renderFrames_zero (P : Params) (mute : Bank Bool) (n : Nat) (chs : Bank Channel) :
    (renderFrames P mute 0#32 n 0#32 chs).1 = List.replicate (4 * n) 0#8 := by
  induction n generalizing chs with
  | zero => rfl
  | succ n ih =>
    obtain ⟨hleft, hright⟩ := natAbs_frameSums_le P mute chs
    have hlevel : f32Add 0#32 0#32 = 0#32 := by decide
    rw [renderFrames, out16_of_zero (by omega), out16_of_zero (by omega), hlevel, ih, Nat.mul_succ, Nat.add_comm,
      List.replicate_add]
    rfl

theorem renderBuffer_of_zero_ramp {s : State} (h : (fadeSetup Config.params s.mix).1 = (0, 0)) :
    (renderBuffer Config.params s).1 = zeroBuffer := by
  rw [renderBuffer, h]
  exact renderFrames_zero ..

theorem emitIf_eq_append (flag : Bool) (buf : List Byte) (q : List (List Byte)) :
    emitIf flag buf q = q ++ (if flag then [buf] else []) := by
  cases flag with
  | false => exact (List.append_nil q).symm
  | true => rfl

/-- Settles O48: the ramp of a silent block is 0. -/
theorem silentBlockRendersZeros : Obligations.SilentBlockRendersZeros := by
  unfold Obligations.SilentBlockRendersZeros
  intro s rsv toRec toOut hs
  have hfade := fadeSetup_silent hs
  have hbuf : (renderBuffer Config.params (s.rsvCheck (rsv != 0))).1 = zeroBuffer :=
    renderBuffer_of_zero_ramp (congrArg Prod.fst hfade)
  refine ⟨_, rfl, congrArg Prod.snd hfade, ?_, ?_⟩
  · rw [processBuffer_audioQ, hbuf, emitIf_eq_append]
    rfl
  · rw [processBuffer_recQ, hbuf, emitIf_eq_append]
    rfl

/-! ### The silence a fade-out ends in -/

/-- The mixer registers after `n` PROCESS commands. -/
def mixAfter (n : Nat) (m : Mixer) : Mixer := (fun m => (fadeSetup Config.params m).2)^[n] m

theorem mixAfter_succ (n : Nat) (m : Mixer) : mixAfter (n + 1) m = (fadeSetup Config.params (mixAfter n m)).2 :=
  Function.iterate_succ_apply' _ _ _

theorem mixAfter_of_silent {m : Mixer} (h : m.silent = true) (n : Nat) : mixAfter n m = m :=
  Function.iterate_fixed (congrArg Prod.snd (fadeSetup_silent h)) n

/-- R108: a fade-out counts down, and is not silent while microframes are left. -/
theorem mixAfter_of_fadingOut {m : Mixer} (hs : m.silent = false) (hd : m.fadeDir = .fadingOut) {n : Nat}
    (hn : n < m.fadeLeft) : (mixAfter n m).silent = false ∧ (mixAfter n m).fadeDir = .fadingOut ∧
      (mixAfter n m).fadeLeft = m.fadeLeft - n := by
  induction n with
  | zero => exact ⟨hs, hd, rfl⟩
  | succ n ih =>
    obtain ⟨hsn, hdn, hln⟩ := ih (Nat.lt_of_succ_lt hn)
    rw [mixAfter_succ, fadeSetup_moves hsn (by omega) (by omega)]
    refine ⟨hsn, hdn, ?_⟩
    rw [fadeAdvance_fadeLeft, hln, Nat.sub_sub]

/-- R109 (a): the ramp of the PROCESS that completes a fade-out is 0, and the block is silent after it. -/
theorem fadeSetup_mixAfter_of_completing {m : Mixer} (hd : m.fadeDir = .fadingOut) {n : Nat} (hn : n + 1 = m.fadeLeft) :
    (fadeSetup Config.params (mixAfter n m)).1 = (0, 0) ∧ (mixAfter (n + 1) m).silent = true := by
  rw [mixAfter_succ]
  cases hs : m.silent with
  | true =>
    rw [mixAfter_of_silent hs, fadeSetup_silent hs]
    exact ⟨rfl, hs⟩
  | false =>
    obtain ⟨hsn, hdn, hln⟩ := mixAfter_of_fadingOut hs hd (n := n) (by omega)
    rw [fadeSetup_completes hsn (by omega) hdn]
    exact ⟨rfl, rfl⟩

/-- R109 (a): when a fade-out is silent. -/
theorem mixAfter_silent_iff {m : Mixer} (hd : m.fadeDir = .fadingOut) {n : Nat} (hpos : 0 < m.fadeLeft)
    (hn : n ≤ m.fadeLeft) : (mixAfter n m).silent = true ↔ m.silent = true ∨ n = m.fadeLeft := by
  rcases hn.lt_or_eq with hlt | heq
  · cases hs : m.silent with
    | true => simp only [mixAfter_of_silent hs, hs, true_or]
    | false => simp only [(mixAfter_of_fadingOut hs hd hlt).1, hlt.ne, Bool.false_eq_true, or_false]
  · obtain ⟨k, rfl⟩ := Nat.exists_eq_succ_of_ne_zero (heq ▸ hpos.ne')
    exact iff_of_true (fadeSetup_mixAfter_of_completing hd heq).2 (.inr heq)

theorem runCommands_append {is js : List Instr} {s s' : State} (h : runCommands is s = .next s') :
    runCommands (is ++ js) s = runCommands js s' := by
  induction is generalizing s with
  | nil =>
    cases h
    rfl
  | cons i is ih =>
    rw [List.cons_append, runCommands]
    rw [runCommands] at h
    cases he : exec i s with
    | next s₁ =>
      rw [he] at h
      exact ih h
    | fault r =>
      rw [he] at h
      cases h
    | refused r =>
      rw [he] at h
      cases h

/-- The PROCESS commands with the given flags and no reserved bit. -/
def processes (flags : List (Bool × Bool)) : List Instr := flags.map fun f => .process 0 f.1 f.2

/-- R113: a list of PROCESS commands completes, the mixer after it depends on their number alone, and where the last
one's ramp is 0 the last buffer handed over is all zero. -/
theorem runCommands_processes (s : State) (flags : List (Bool × Bool)) :
    ∃ s', runCommands (processes flags) s = .next s' ∧ s'.mix = mixAfter flags.length s.mix ∧
      ∀ f, flags.getLast? = some f →
        (fadeSetup Config.params (mixAfter (flags.length - 1) s.mix)).1 = (0, 0) →
        (f.2 = true → s'.audioQ.getLast? = some zeroBuffer) ∧ (f.1 = true → s'.recQ.getLast? = some zeroBuffer) := by
  induction flags using List.reverseRecOn with
  | nil => exact ⟨s, rfl, rfl, fun f hf => nomatch hf⟩
  | append_singleton flags g ih =>
    obtain ⟨s₁, hrun, hmix, -⟩ := ih
    rw [processes, List.map_append, ← processes, runCommands_append hrun, List.length_append, List.length_singleton,
      mixAfter_succ, ← hmix, Nat.add_sub_cancel]
    refine ⟨_, rfl, rfl, fun f hf hramp => ?_⟩
    obtain rfl : g = f := Option.some.inj (List.getLast?_concat.symm.trans hf)
    rw [rsvCheck_zero, processBuffer_audioQ, processBuffer_recQ, renderBuffer_of_zero_ramp (hmix ▸ hramp)]
    constructor
    all_goals
      intro hflag
      rw [hflag]
      exact List.getLast?_concat

/-- R105: FADE_OUT arms a fade of the whole length and keeps `silent`. -/
theorem exec_fadeOut (s : State) : ∃ s₁, exec (.fadeOut 0) s = .next s₁ ∧ s₁.mix.silent = s.mix.silent ∧
    s₁.mix.fadeDir = .fadingOut ∧ s₁.mix.fadeLeft = 1920 := ⟨_, rfl, rfl, rfl, rfl⟩

/-- Settles O49, from the mixer along a list of PROCESS commands. -/
theorem fadeOutEndsInSilence : Obligations.FadeOutEndsInSilence := by
  unfold Obligations.FadeOutEndsInSilence
  intro s flags hlen
  obtain ⟨s₁, hexec, hsilent, hdir, hleft⟩ := exec_fadeOut s
  obtain ⟨s', hrun, hmix, hlast⟩ := runCommands_processes s₁ flags
  refine ⟨s', ?_, ?_, fun h f hf => hlast f hf ?_⟩
  · rw [runCommands, hexec]
    exact hrun
  · rw [hmix, ← hsilent, ← hleft]
    exact mixAfter_silent_iff hdir (by omega) (by omega)
  · rw [h]
    exact (fadeSetup_mixAfter_of_completing hdir hleft.symm).1

end Sys2Proof.Machine
end

section
/-! PROOFS. The control commands (R115 to R117): which headers decoding answers as unknown opcodes, the step at such a
header, and the two commands that have a meaning of their own, NOP and CLR_STATUS. -/

namespace Sys2Proof

/-! ### Unknown opcodes -/

/-- The opcodes that stand in no row of R53's map, in the ranges R117 lists. -/
abbrev UnlistedOpcode (op : BitVec 8) : Prop :=
  (0x15 ≤ op.toNat ∧ op.toNat ≤ 0x1F) ∨ (0x22 ≤ op.toNat ∧ op.toNat ≤ 0x2F) ∨ (0x33 ≤ op.toNat ∧ op.toNat ≤ 0x3F) ∨
    (0x44 ≤ op.toNat ∧ op.toNat ≤ 0x4E) ∨ 0x50 ≤ op.toNat

/-- R53, R117: beside the two longer commands, the headers that name no command are those of an unlisted opcode. -/
theorem decodeOneWord_eq_none_iff {w : Word} (h20 : opcodeOf w ≠ 0x20#8) (h43 : opcodeOf w ≠ 0x43#8) :
    decodeOneWord w = none ↔ UnlistedOpcode (opcodeOf w) := by
  unfold decodeOneWord
  split
  case h_30 =>
    refine iff_of_true rfl ?_
    simp only [imp_false] at *
    bv_omega
  all_goals
    rename_i hop
    rw [hop]
    exact iff_of_false nofun (by decide)

theorem cmdLength_eq_one_iff (op : BitVec 8) : cmdLength op = 1 ↔ op ≠ 0x20#8 ∧ op ≠ 0x43#8 := by
  unfold cmdLength
  split_ifs with h20 h43
  · exact iff_of_false (by decide) fun h => h.1 h20
  · exact iff_of_false (by decide) fun h => h.2 h43
  · exact iff_of_true rfl ⟨h20, h43⟩

/-- R50, R117: the headers decoding answers as unknown, whatever stands after them. -/
theorem decode_cons_unknown_iff (w : Word) (ws : List Word) :
    (∃ op rest, decode (w :: ws) = .unknown op rest) ↔ UnlistedOpcode (opcodeOf w) := by
  constructor
  · rintro ⟨op, rest, hd⟩
    obtain ⟨h20, h43⟩ := (cmdLength_eq_one_iff _).1 (eq_of_decode_cons_unknown hd).1
    rw [← decodeOneWord_eq_none_iff h20 h43]
    cases hw : decodeOneWord w with
    | none => rfl
    | some i => cases (decode_oneWord ws h20 h43 hw).symm.trans hd
  · intro hop
    have h20 : opcodeOf w ≠ 0x20#8 := by bv_omega
    have h43 : opcodeOf w ≠ 0x43#8 := by bv_omega
    have hw := (decodeOneWord_eq_none_iff h20 h43).2 hop
    exact ⟨opcodeOf w, ws, by rw [decode, if_neg h20, if_neg h43, hw]⟩

end Sys2Proof

namespace Sys2Proof.Machine

/-- R117: the step at an unknown opcode raises UNK at the consumed state. -/
theorem step_of_decode_unknown {s : State} {op : BitVec 8} {rest : List Word} (h : decode s.stream = .unknown op rest) :
    step s = .next (s.consume rest).raiseUnk := by
  rw [step, h]
  rfl

/-- R32: consuming a header alone advances the position by one word. -/
theorem consume_of_stream_cons {s : State} {w : Word} {rest : List Word} (h : s.stream = w :: rest) :
    s.consume rest = { s with stream := rest, pos := s.pos + 1 } := by
  rw [State.consume, h, List.length_cons, Nat.add_sub_cancel_left]

/-- Settles O5, from the headers decoding answers as unknown and the step at one. -/
theorem unknownOpcodeOnlySetsUnk : Obligations.UnknownOpcodeOnlySetsUnk := by
  unfold Obligations.UnknownOpcodeOnlySetsUnk
  intro s w rest hs
  refine ⟨decode_cons_unknown_iff w rest, fun ⟨op, r, hd⟩ => ?_⟩
  obtain ⟨-, -, rfl⟩ := eq_of_decode_cons_unknown hd
  rw [step_of_decode_unknown (hs ▸ hd), consume_of_stream_cons hs]
  rfl

/-! ### NOP and CLR_STATUS -/

/-- R115: NOP is the check of its reserved bits. -/
theorem exec_nop (r : BitVec 24) (s : State) :
    exec (.nop r) s = .next { s with st := { s.st with rsv := s.st.rsv || r != 0 } } := rfl

/-- R116: the check of the reserved bits reads the cleared status, so it alone decides `st.rsv`. -/
theorem exec_clrStatus (r : BitVec 24) (s : State) :
    exec (.clrStatus r) s = .next { s with st := { unk := false, rsv := r != 0, drop := false, lastNote := 0 } } := rfl

/-- Settles O52: each header decodes by its opcode, and its masked bits are the reserved field its command checks. -/
theorem controlCommands : Obligations.ControlCommands := by
  unfold Obligations.ControlCommands
  constructor
  all_goals
    intro s w rest hw
    refine ⟨decode_oneWord rest (by rw [hw]; decide) (by rw [hw]; decide) (by simp only [decodeOneWord, hw]), ?_⟩
    rw [and_formatNMask_bne_zero]
  · exact exec_nop _ s
  · exact exec_clrStatus _ s

end Sys2Proof.Machine
end

section
/-! PROOFS. The event bits (R118, R119): no NOTE touches UNK or clears a bit, and the commands besides NOTE and
CLR_STATUS write `st.rsv` alone. -/

namespace Sys2Proof.Machine

/-- R118: no case of a NOTE touches UNK. -/
theorem noteStart_unk (P : Params) (n : NoteFields) (s : State) : (noteStart P n s).st.unk = s.st.unk := by
  rcases noteStart_cases P s n with ⟨-, h⟩ | ⟨_, -, -, h⟩ | ⟨_, _, -, -, h⟩
  · rw [h, noteDrop_st, State.raiseRsv_st]
  · rw [h, noteDrop_st]
  · rw [h, noteTake_st]

/-- R98, R118: a NOTE raises DROP or leaves it. -/
theorem noteStart_drop_of_drop (P : Params) (n : NoteFields) {s : State} (hdrop : s.st.drop = true) :
    (noteStart P n s).st.drop = true := by
  rcases noteStart_cases P s n with ⟨-, h⟩ | ⟨_, -, -, h⟩ | ⟨_, _, -, -, h⟩
  · rw [h, noteDrop_st]
  · rw [h, noteDrop_st]
  · rw [h, noteTake_st, hdrop]

/-- R118: a set `st.rsv` survives a command that writes that register alone. -/
theorem RsvOnly.rsv_of_rsv {s s' : State} {bad : Bool} (h : RsvOnly s s' bad) (hrsv : s.st.rsv = true) :
    s'.st.rsv = true := by
  rw [h, hrsv, Bool.true_or]

/-- Settles O56: CLR_STATUS and NOTE by their own laws, and the other commands write `st.rsv` alone. -/
theorem eventBitsAreSticky : Obligations.EventBitsAreSticky := by
  unfold Obligations.EventBitsAreSticky
  intro i s s' h
  by_cases hi : WritesStatus i
  · cases i with
    | clrStatus r =>
      obtain rfl := Host.Outcome.next.inj ((exec_clrStatus r s).symm.trans h)
      exact ⟨fun _ => ⟨rfl, rfl, rfl⟩, fun hne => absurd rfl (hne r), fun hne => absurd rfl (hne r)⟩
    | note n =>
      obtain rfl := Host.Outcome.next.inj h
      refine ⟨nofun, fun _ => ⟨noteStart_unk _ n _, fun hrsv => ?_, fun hdrop => noteStart_drop_of_drop _ n hdrop⟩,
        fun _ hne => absurd rfl (hne n)⟩
      rw [noteStart_rsv, State.rsvCheck_st, hrsv, Bool.true_or, Bool.true_or]
    | _ => exact hi.elim
  · obtain ⟨a, ha, hst⟩ := exec_rsvOnly hi s
    obtain rfl := Host.Outcome.next.inj (ha.symm.trans h)
    have hunk : a.st.unk = s.st.unk := by rw [hst]
    have hdrop : a.st.drop = s.st.drop := by rw [hst]
    have hlast : a.st.lastNote = s.st.lastNote := by rw [hst]
    refine ⟨?_, fun _ => ⟨hunk, hst.rsv_of_rsv, hdrop.trans⟩, fun _ _ => ⟨hdrop, hlast⟩⟩
    rintro ⟨r, rfl⟩
    exact absurd trivial hi

end Sys2Proof.Machine
end

section
/-! PROOFS. The duration under the tick protocol (R136): what one tick of a channel's owner does to its duration, and by
induction what `k` ticks do. -/

namespace Sys2Proof.Machine

/-- R79: a tick of a channel's owner completes, leaves the owner, and lowers a positive duration by one. -/
theorem exec_trkTick_of_owner {s : State} {t : TrackIdx} {c : ChanIdx} (h : (s.ch c).owner = some t) :
    ∃ s₁, exec (.trkTick t 0) s = .next s₁ ∧ (s₁.ch c).owner = some t ∧
      (s₁.ch c).dur.toInt = if 0 < (s.ch c).dur.toInt then (s.ch c).dur.toInt - 1 else (s.ch c).dur.toInt := by
  refine ⟨_, rfl, ?_⟩
  rw [rsvCheck_zero, trackTick_ch, tickChannel_of_owned h]
  exact ⟨h, tickDur_toInt _⟩

/-- Settles O58, by induction on the number of ticks from every state. -/
theorem durationCountsDownByTicks : Obligations.DurationCountsDownByTicks := by
  unfold Obligations.DurationCountsDownByTicks
  intro k
  induction k with
  | zero =>
    intro s t c howner
    exact ⟨s, rfl, howner, by omega⟩
  | succ k ih =>
    intro s t c howner
    obtain ⟨s₁, hexec, howner₁, hdur₁⟩ := exec_trkTick_of_owner howner
    obtain ⟨s', hrun, howner', hdur'⟩ := ih s₁ t c howner₁
    refine ⟨s', ?_, howner', ?_⟩
    · rw [List.replicate_succ, runCommands, hexec]
      exact hrun
    · rw [hdur', hdur₁]
      omega

end Sys2Proof.Machine
end
